-- ==== Sys2Proof/Word.lean ====
section
/-! DEFINITION. The word types of the engine. Every value of the engine is unsigned (spec R13); memory is moved one byte at a
time (R58) and the host reaches the registers 32 bits at a time (R21). -/

namespace Sys2Proof

/-- One byte of a buffer (R50, R51). -/
abbrev Byte := BitVec 8

/-- The data of one host access to an interface register, 32 bits wide (R21). -/
abbrev Data := BitVec 32

end Sys2Proof
end

