-- ==== Sys2Proof/Syntax.lean ====
section
/-! DEFINITION. The instructions of the engine: the elements of a DEFLATE stream and the one host command, one constructor per row
of spec/opcode_table.json (spec R82 to R84, R91). The operand of a constructor is the part of the row's value that its mask leaves
open; extra bits are elements of their own (R80), read by the meaning. -/

namespace Sys2Proof

/-- The five formats of spec/opcode_table.json (R72, R79, R91): which element the engine, or the host port, reads next. -/
inductive Format where
  /-- The value V = BFINAL + 2*BTYPE of the three header bits (R72). -/
  | blockHeader
  /-- A 9-bit literal/length symbol value (R82). -/
  | litlenSymbol
  /-- A 5-bit distance symbol value (R83). -/
  | distSymbol
  /-- A 5-bit code-length symbol value (R84). -/
  | clSymbol
  /-- Bit 0 of a host write to CTRL (R26, R200). -/
  | hostCommand
  deriving DecidableEq, Repr

/-- One element of the stream, or the host command DECODE. -/
inductive Instr where
  /-- STORED (R154): a stored block; bfinal is V[0]. -/
  | stored (bfinal : Bool)
  /-- FIXED (R157): a fixed-Huffman block; bfinal is V[0]. -/
  | fixed (bfinal : Bool)
  /-- DYNAMIC (R158): a dynamic-Huffman block; bfinal is V[0]. -/
  | dynamic (bfinal : Bool)
  /-- RESERVED (R153): the reserved block type 3; bfinal is V[0]. -/
  | reserved (bfinal : Bool)
  /-- LIT (R181): one literal byte; sym is the 9-bit symbol value, 0 to 255. -/
  | lit (sym : BitVec 9)
  /-- EOB (R182): end of block. -/
  | eob
  /-- LEN_257 (R183): length symbol, lengths 3 to 3, 0 extra bits. -/
  | len257
  /-- LEN_258 (R183): length symbol, lengths 4 to 4, 0 extra bits. -/
  | len258
  /-- LEN_259 (R183): length symbol, lengths 5 to 5, 0 extra bits. -/
  | len259
  /-- LEN_260 (R183): length symbol, lengths 6 to 6, 0 extra bits. -/
  | len260
  /-- LEN_261 (R183): length symbol, lengths 7 to 7, 0 extra bits. -/
  | len261
  /-- LEN_262 (R183): length symbol, lengths 8 to 8, 0 extra bits. -/
  | len262
  /-- LEN_263 (R183): length symbol, lengths 9 to 9, 0 extra bits. -/
  | len263
  /-- LEN_264 (R183): length symbol, lengths 10 to 10, 0 extra bits. -/
  | len264
  /-- LEN_265 (R183): length symbol, lengths 11 to 12, 1 extra bits. -/
  | len265
  /-- LEN_266 (R183): length symbol, lengths 13 to 14, 1 extra bits. -/
  | len266
  /-- LEN_267 (R183): length symbol, lengths 15 to 16, 1 extra bits. -/
  | len267
  /-- LEN_268 (R183): length symbol, lengths 17 to 18, 1 extra bits. -/
  | len268
  /-- LEN_269 (R183): length symbol, lengths 19 to 22, 2 extra bits. -/
  | len269
  /-- LEN_270 (R183): length symbol, lengths 23 to 26, 2 extra bits. -/
  | len270
  /-- LEN_271 (R183): length symbol, lengths 27 to 30, 2 extra bits. -/
  | len271
  /-- LEN_272 (R183): length symbol, lengths 31 to 34, 2 extra bits. -/
  | len272
  /-- LEN_273 (R183): length symbol, lengths 35 to 42, 3 extra bits. -/
  | len273
  /-- LEN_274 (R183): length symbol, lengths 43 to 50, 3 extra bits. -/
  | len274
  /-- LEN_275 (R183): length symbol, lengths 51 to 58, 3 extra bits. -/
  | len275
  /-- LEN_276 (R183): length symbol, lengths 59 to 66, 3 extra bits. -/
  | len276
  /-- LEN_277 (R183): length symbol, lengths 67 to 82, 4 extra bits. -/
  | len277
  /-- LEN_278 (R183): length symbol, lengths 83 to 98, 4 extra bits. -/
  | len278
  /-- LEN_279 (R183): length symbol, lengths 99 to 114, 4 extra bits. -/
  | len279
  /-- LEN_280 (R183): length symbol, lengths 115 to 130, 4 extra bits. -/
  | len280
  /-- LEN_281 (R183): length symbol, lengths 131 to 162, 5 extra bits. -/
  | len281
  /-- LEN_282 (R183): length symbol, lengths 163 to 194, 5 extra bits. -/
  | len282
  /-- LEN_283 (R183): length symbol, lengths 195 to 226, 5 extra bits. -/
  | len283
  /-- LEN_284 (R183): length symbol, lengths 227 to 258, 5 extra bits. -/
  | len284
  /-- LEN_285 (R183): length symbol, lengths 258 to 258, 0 extra bits. -/
  | len285
  /-- INVALID_286 (R184): a symbol that has a code and no meaning: InvalidBlockData. -/
  | invalid286
  /-- INVALID_287 (R184): a symbol that has a code and no meaning: InvalidBlockData. -/
  | invalid287
  /-- DIST_0 (R185): distance symbol, distances 1 to 1, 0 extra bits. -/
  | dist0
  /-- DIST_1 (R185): distance symbol, distances 2 to 2, 0 extra bits. -/
  | dist1
  /-- DIST_2 (R185): distance symbol, distances 3 to 3, 0 extra bits. -/
  | dist2
  /-- DIST_3 (R185): distance symbol, distances 4 to 4, 0 extra bits. -/
  | dist3
  /-- DIST_4 (R185): distance symbol, distances 5 to 6, 1 extra bits. -/
  | dist4
  /-- DIST_5 (R185): distance symbol, distances 7 to 8, 1 extra bits. -/
  | dist5
  /-- DIST_6 (R185): distance symbol, distances 9 to 12, 2 extra bits. -/
  | dist6
  /-- DIST_7 (R185): distance symbol, distances 13 to 16, 2 extra bits. -/
  | dist7
  /-- DIST_8 (R185): distance symbol, distances 17 to 24, 3 extra bits. -/
  | dist8
  /-- DIST_9 (R185): distance symbol, distances 25 to 32, 3 extra bits. -/
  | dist9
  /-- DIST_10 (R185): distance symbol, distances 33 to 48, 4 extra bits. -/
  | dist10
  /-- DIST_11 (R185): distance symbol, distances 49 to 64, 4 extra bits. -/
  | dist11
  /-- DIST_12 (R185): distance symbol, distances 65 to 96, 5 extra bits. -/
  | dist12
  /-- DIST_13 (R185): distance symbol, distances 97 to 128, 5 extra bits. -/
  | dist13
  /-- DIST_14 (R185): distance symbol, distances 129 to 192, 6 extra bits. -/
  | dist14
  /-- DIST_15 (R185): distance symbol, distances 193 to 256, 6 extra bits. -/
  | dist15
  /-- DIST_16 (R185): distance symbol, distances 257 to 384, 7 extra bits. -/
  | dist16
  /-- DIST_17 (R185): distance symbol, distances 385 to 512, 7 extra bits. -/
  | dist17
  /-- DIST_18 (R185): distance symbol, distances 513 to 768, 8 extra bits. -/
  | dist18
  /-- DIST_19 (R185): distance symbol, distances 769 to 1024, 8 extra bits. -/
  | dist19
  /-- DIST_20 (R185): distance symbol, distances 1025 to 1536, 9 extra bits. -/
  | dist20
  /-- DIST_21 (R185): distance symbol, distances 1537 to 2048, 9 extra bits. -/
  | dist21
  /-- DIST_22 (R185): distance symbol, distances 2049 to 3072, 10 extra bits. -/
  | dist22
  /-- DIST_23 (R185): distance symbol, distances 3073 to 4096, 10 extra bits. -/
  | dist23
  /-- DIST_24 (R185): distance symbol, distances 4097 to 6144, 11 extra bits. -/
  | dist24
  /-- DIST_25 (R185): distance symbol, distances 6145 to 8192, 11 extra bits. -/
  | dist25
  /-- DIST_26 (R185): distance symbol, distances 8193 to 12288, 12 extra bits. -/
  | dist26
  /-- DIST_27 (R185): distance symbol, distances 12289 to 16384, 12 extra bits. -/
  | dist27
  /-- DIST_28 (R185): distance symbol, distances 16385 to 24576, 13 extra bits. -/
  | dist28
  /-- DIST_29 (R185): distance symbol, distances 24577 to 32768, 13 extra bits. -/
  | dist29
  /-- INVALID_D30 (R186): a symbol that has a code and no meaning: InvalidBlockData. -/
  | invalidD30
  /-- INVALID_D31 (R186): a symbol that has a code and no meaning: InvalidBlockData. -/
  | invalidD31
  /-- CL_LIT (R162): a code length as it stands; c is the 5-bit symbol value, 0 to 15. -/
  | clLit (c : BitVec 5)
  /-- REP_PREV (R163): repeat the previous length 3 to 6 times, 2 extra bits. -/
  | repPrev
  /-- REP_ZERO (R164): repeat length 0, 3 to 10 times, 3 extra bits. -/
  | repZero
  /-- REP_ZERO_LONG (R165): repeat length 0, 11 to 138 times, 7 extra bits. -/
  | repZeroLong
  /-- DECODE (R200): the host command: a write of 1 to CTRL bit 0. -/
  | decode
  deriving DecidableEq, Repr

end Sys2Proof
end

