-- ==== Sys2Proof/WellFormed.lean ====
section
/-! DEFINITION. Which instructions the stream can hold: the operand of LIT is a byte value and the operand of CL_LIT a code length
(spec R82, R84). Every other operand fits its field by its type. -/

namespace Sys2Proof

/-- R82: literal symbols are 0 to 255. R84: literal code lengths are 0 to 15. -/
def Instr.wellFormed : Instr → Bool
  | .stored _ => true
  | .fixed _ => true
  | .dynamic _ => true
  | .reserved _ => true
  | .lit sym => decide (sym.toNat < 256)
  | .eob => true
  | .len257 => true
  | .len258 => true
  | .len259 => true
  | .len260 => true
  | .len261 => true
  | .len262 => true
  | .len263 => true
  | .len264 => true
  | .len265 => true
  | .len266 => true
  | .len267 => true
  | .len268 => true
  | .len269 => true
  | .len270 => true
  | .len271 => true
  | .len272 => true
  | .len273 => true
  | .len274 => true
  | .len275 => true
  | .len276 => true
  | .len277 => true
  | .len278 => true
  | .len279 => true
  | .len280 => true
  | .len281 => true
  | .len282 => true
  | .len283 => true
  | .len284 => true
  | .len285 => true
  | .invalid286 => true
  | .invalid287 => true
  | .dist0 => true
  | .dist1 => true
  | .dist2 => true
  | .dist3 => true
  | .dist4 => true
  | .dist5 => true
  | .dist6 => true
  | .dist7 => true
  | .dist8 => true
  | .dist9 => true
  | .dist10 => true
  | .dist11 => true
  | .dist12 => true
  | .dist13 => true
  | .dist14 => true
  | .dist15 => true
  | .dist16 => true
  | .dist17 => true
  | .dist18 => true
  | .dist19 => true
  | .dist20 => true
  | .dist21 => true
  | .dist22 => true
  | .dist23 => true
  | .dist24 => true
  | .dist25 => true
  | .dist26 => true
  | .dist27 => true
  | .dist28 => true
  | .dist29 => true
  | .invalidD30 => true
  | .invalidD31 => true
  | .clLit c => decide (c.toNat < 16)
  | .repPrev => true
  | .repZero => true
  | .repZeroLong => true
  | .decode => true

/-- The instruction is one a stream can hold. -/
abbrev Instr.WellFormed (i : Instr) : Prop := i.wellFormed = true

end Sys2Proof
end

