-- ==== Sys2Proof/Decode.lean ====
section
/-! DEFINITION. The decoder and, after it, the encoder, both from the tables of spec/30_encoding.md. A Huffman-coded element is
matched on its decoded symbol value (spec R91: "Rows of Huffman-coded formats match on the decoded symbol value, not on stream
bits, because the bits depend on the block's code"); the walk from stream bits to that value is the symbol decoder's
(Machine/Ops.lean). What format is read next is the machine's state (R90, R91). -/

namespace Sys2Proof

/-- Why a value is no instruction of its format. -/
inductive Reject where
  /-- The value does not fit the format's width. -/
  | tooWide
  /-- A literal/length value above 287: no leaf of a table of 288 symbols holds it (R82, R130). -/
  | outsideLitlenAlphabet
  /-- A code-length value above 18: no leaf of a table of 19 symbols holds it (R84). -/
  | outsideCodeLengthAlphabet
  /-- A host write to CTRL with START = 0: it has no effect (R26). -/
  | noStart
  deriving DecidableEq, Repr

/-- The width of a format's value in bits (R72, R82, R83, R84, R26). -/
def Format.width : Format → Nat
  | .blockHeader => 3
  | .litlenSymbol => 9
  | .distSymbol => 5
  | .clSymbol => 5
  | .hostCommand => 1

/-- R82: the literal/length symbols 256 to 287, in order. -/
def litlenFrom256 : List Instr :=
  [.eob, .len257, .len258, .len259, .len260, .len261, .len262, .len263] ++
  [.len264, .len265, .len266, .len267, .len268, .len269, .len270, .len271] ++
  [.len272, .len273, .len274, .len275, .len276, .len277, .len278, .len279] ++
  [.len280, .len281, .len282, .len283, .len284, .len285, .invalid286, .invalid287]

/-- R83: the distance symbols 0 to 31, in order. -/
def distFrom0 : List Instr :=
  [.dist0, .dist1, .dist2, .dist3, .dist4, .dist5, .dist6, .dist7] ++
  [.dist8, .dist9, .dist10, .dist11, .dist12, .dist13, .dist14, .dist15] ++
  [.dist16, .dist17, .dist18, .dist19, .dist20, .dist21, .dist22, .dist23] ++
  [.dist24, .dist25, .dist26, .dist27, .dist28, .dist29, .invalidD30, .invalidD31]

/-- R72, R73: the three header bits as V = BFINAL + 2*BTYPE. -/
def decodeHeader (v : Nat) : Instr :=
  let bfinal := v.testBit 0
  match v / 2 % 4 with
  | 0 => .stored bfinal
  | 1 => .fixed bfinal
  | 2 => .dynamic bfinal
  | _ => .reserved bfinal

/-- R82: literals, then the symbols from 256 on; a value above 287 is none. -/
def decodeLitlen (v : Nat) : Except Reject Instr :=
  if v < 256 then .ok (.lit (BitVec.ofNat 9 v))
  else match litlenFrom256[v - 256]? with
    | some i => .ok i
    | none => .error .outsideLitlenAlphabet

/-- R83: every 5-bit value is a distance symbol. -/
def decodeDist (v : Nat) : Except Reject Instr :=
  match distFrom0[v]? with
  | some i => .ok i
  | none => .error .tooWide

/-- R84: lengths 0 to 15 as they stand, then the three repeat symbols. -/
def decodeCl (v : Nat) : Except Reject Instr :=
  if v < 16 then .ok (.clLit (BitVec.ofNat 5 v))
  else if v = 16 then .ok .repPrev
  else if v = 17 then .ok .repZero
  else if v = 18 then .ok .repZeroLong
  else .error .outsideCodeLengthAlphabet

/-- R91: the decoder, total on every value. -/
def decode (f : Format) (v : Nat) : Except Reject Instr :=
  if 2 ^ f.width ≤ v then .error .tooWide
  else match f with
    | .blockHeader => .ok (decodeHeader v)
    | .litlenSymbol => decodeLitlen v
    | .distSymbol => decodeDist v
    | .clSymbol => decodeCl v
    | .hostCommand => if v = 1 then .ok .decode else .error .noStart

/-! ## The encoder -/

/-- An instruction as a word: the format and the value of that format. -/
structure Encoded where
  format : Format
  value : Nat
  deriving DecidableEq, Repr

/-- R72: V of a block header from BFINAL and BTYPE. -/
def headerValue (bfinal : Bool) (btype : Nat) : Nat := bfinal.toNat + 2 * btype

/-- The word of an instruction, from the opcode table (R72, R82, R83, R84, R200). -/
def encode : Instr → Encoded
  | .stored bfinal => ⟨.blockHeader, headerValue bfinal 0⟩
  | .fixed bfinal => ⟨.blockHeader, headerValue bfinal 1⟩
  | .dynamic bfinal => ⟨.blockHeader, headerValue bfinal 2⟩
  | .reserved bfinal => ⟨.blockHeader, headerValue bfinal 3⟩
  | .lit sym => ⟨.litlenSymbol, sym.toNat⟩
  | .eob => ⟨.litlenSymbol, 256⟩
  | .len257 => ⟨.litlenSymbol, 257⟩
  | .len258 => ⟨.litlenSymbol, 258⟩
  | .len259 => ⟨.litlenSymbol, 259⟩
  | .len260 => ⟨.litlenSymbol, 260⟩
  | .len261 => ⟨.litlenSymbol, 261⟩
  | .len262 => ⟨.litlenSymbol, 262⟩
  | .len263 => ⟨.litlenSymbol, 263⟩
  | .len264 => ⟨.litlenSymbol, 264⟩
  | .len265 => ⟨.litlenSymbol, 265⟩
  | .len266 => ⟨.litlenSymbol, 266⟩
  | .len267 => ⟨.litlenSymbol, 267⟩
  | .len268 => ⟨.litlenSymbol, 268⟩
  | .len269 => ⟨.litlenSymbol, 269⟩
  | .len270 => ⟨.litlenSymbol, 270⟩
  | .len271 => ⟨.litlenSymbol, 271⟩
  | .len272 => ⟨.litlenSymbol, 272⟩
  | .len273 => ⟨.litlenSymbol, 273⟩
  | .len274 => ⟨.litlenSymbol, 274⟩
  | .len275 => ⟨.litlenSymbol, 275⟩
  | .len276 => ⟨.litlenSymbol, 276⟩
  | .len277 => ⟨.litlenSymbol, 277⟩
  | .len278 => ⟨.litlenSymbol, 278⟩
  | .len279 => ⟨.litlenSymbol, 279⟩
  | .len280 => ⟨.litlenSymbol, 280⟩
  | .len281 => ⟨.litlenSymbol, 281⟩
  | .len282 => ⟨.litlenSymbol, 282⟩
  | .len283 => ⟨.litlenSymbol, 283⟩
  | .len284 => ⟨.litlenSymbol, 284⟩
  | .len285 => ⟨.litlenSymbol, 285⟩
  | .invalid286 => ⟨.litlenSymbol, 286⟩
  | .invalid287 => ⟨.litlenSymbol, 287⟩
  | .dist0 => ⟨.distSymbol, 0⟩
  | .dist1 => ⟨.distSymbol, 1⟩
  | .dist2 => ⟨.distSymbol, 2⟩
  | .dist3 => ⟨.distSymbol, 3⟩
  | .dist4 => ⟨.distSymbol, 4⟩
  | .dist5 => ⟨.distSymbol, 5⟩
  | .dist6 => ⟨.distSymbol, 6⟩
  | .dist7 => ⟨.distSymbol, 7⟩
  | .dist8 => ⟨.distSymbol, 8⟩
  | .dist9 => ⟨.distSymbol, 9⟩
  | .dist10 => ⟨.distSymbol, 10⟩
  | .dist11 => ⟨.distSymbol, 11⟩
  | .dist12 => ⟨.distSymbol, 12⟩
  | .dist13 => ⟨.distSymbol, 13⟩
  | .dist14 => ⟨.distSymbol, 14⟩
  | .dist15 => ⟨.distSymbol, 15⟩
  | .dist16 => ⟨.distSymbol, 16⟩
  | .dist17 => ⟨.distSymbol, 17⟩
  | .dist18 => ⟨.distSymbol, 18⟩
  | .dist19 => ⟨.distSymbol, 19⟩
  | .dist20 => ⟨.distSymbol, 20⟩
  | .dist21 => ⟨.distSymbol, 21⟩
  | .dist22 => ⟨.distSymbol, 22⟩
  | .dist23 => ⟨.distSymbol, 23⟩
  | .dist24 => ⟨.distSymbol, 24⟩
  | .dist25 => ⟨.distSymbol, 25⟩
  | .dist26 => ⟨.distSymbol, 26⟩
  | .dist27 => ⟨.distSymbol, 27⟩
  | .dist28 => ⟨.distSymbol, 28⟩
  | .dist29 => ⟨.distSymbol, 29⟩
  | .invalidD30 => ⟨.distSymbol, 30⟩
  | .invalidD31 => ⟨.distSymbol, 31⟩
  | .clLit c => ⟨.clSymbol, c.toNat⟩
  | .repPrev => ⟨.clSymbol, 16⟩
  | .repZero => ⟨.clSymbol, 17⟩
  | .repZeroLong => ⟨.clSymbol, 18⟩
  | .decode => ⟨.hostCommand, 1⟩

/-- `n` bits of `v`, most significant first: the stream order of a Huffman code (R79). -/
def bitsMsb (n v : Nat) : List Bool := ((List.range n).map fun k => v.testBit k).reverse

/-- `n` bits of `v`, least significant first: the stream order of a header or extra-bits field (R80, R101). -/
def bitsLsb (n v : Nat) : List Bool := (List.range n).map fun k => v.testBit k

/-- R85: the length and the value of the fixed code of a literal/length symbol. -/
def fixedLitlenCode (s : Nat) : Nat × Nat :=
  if s < 144 then (8, 0x30 + s)
  else if s < 256 then (9, 0x190 + (s - 144))
  else if s < 280 then (7, s - 256)
  else (8, 0xC0 + (s - 280))

/-- The stream bits of an element of a fixed block, first bit first (R95, R85, R86). A code-length symbol has no fixed code and the
host command is no stream element: none. -/
def fixedStreamBits (i : Instr) : Option (List Bool) :=
  let e := encode i
  match e.format with
  | .blockHeader => some (bitsLsb 3 e.value)
  | .litlenSymbol => some (bitsMsb (fixedLitlenCode e.value).1 (fixedLitlenCode e.value).2)
  | .distSymbol => some (bitsMsb 5 e.value)
  | .clSymbol => none
  | .hostCommand => none

/-! ## The opcode table's words -/

/-- Which format, and which value of it, a word of spec/opcode_table.json stands for. Assumption 8: the table's words of different
formats coincide (0 is STORED, LIT 0, DIST_0 and CL_LIT 0), and in the machine the state tells the format (R90, R91). Without a
state this reads: a word of more than 8 bits as a literal/length symbol, but for the values 18 to 29, and the values of ten bits
and more, which it reads as a distance symbol; of the shorter words 1 as the host command, 0, 2, 4 and 6 as a block header, 16 to 18
as a code-length symbol, and any other as a distance symbol. -/
def tableWordFormat (nbits w : Nat) : Format × Nat :=
  if 8 < nbits then
    if (18 ≤ w && w ≤ 29) || 512 ≤ w then (.distSymbol, w % 32) else (.litlenSymbol, w)
  else if w = 1 then (.hostCommand, w)
  else if w = 0 || w = 2 || w = 4 || w = 6 then (.blockHeader, w)
  else if 16 ≤ w % 32 && w % 32 ≤ 18 then (.clSymbol, w % 32)
  else (.distSymbol, w % 32)

/-- The instruction of a word of spec/opcode_table.json (assumption 8). -/
def decodeTableWord (nbits w : Nat) : Option Instr :=
  match decode (tableWordFormat nbits w).1 (tableWordFormat nbits w).2 with
  | .ok i => some i
  | .error _ => none

end Sys2Proof
end

