-- ==== Sys2Proof/Config.lean ====
section
/-! DEFINITION. What an implementation or a platform fixes (spec R9, R10, R12, R21, R61), and the one value the spec leaves free
(R69, R194). -/

namespace Sys2Proof

/-- The parameters of one engine. They stand in State and no step changes them, so a statement about every state is a statement
about every value of the parameters (assumption 1). -/
structure Config where
  /-- ADDR_W: the bits of IN_LEN, OUT_CAP, BYTE_OFF and OUT_POS (R9). -/
  addrW : Nat
  /-- The platform's width of IN_BASE and OUT_BASE (R21 gives it as "platform"). -/
  baseW : Nat
  /-- REG_BASE: where the interface registers sit in the host's address space (R21, R61). -/
  regBase : Nat
  /-- N_ENGINES: the number of engine instances, at least 1 (R12). -/
  nEngines : Nat
  deriving DecidableEq, Repr

namespace Config

/-- DESIGN CHOICE (assumption 1): the parameters State.reset takes. R9, R10 and R12 leave them open. -/
def standard : Config := { addrW := 32, baseW := 32, regBase := 0, nEngines := 1 }

/-- The free value (assumption 3): the byte a back-reference reads at an offset at or past OUT_CAP while OUT_POS is the second
argument. R69 and R194: "a model may return any byte (a draw) there". It has no body, so nothing can be proved of it. -/
opaque bytePastCap : Nat → Nat → Byte

end Config

end Sys2Proof
end

