-- ==== Sys2Proof/Machine/State.lean ====
section
/-! DEFINITION. The state of the engine (spec/10_state.md), of the two buffers (spec/20_memory.md) and of the host port
(spec/48_host_interface.md), as plain data; the reasons a step can stop; and the state right after reset (R250). -/

namespace Sys2Proof.Machine

/-- R29: the state of the block processor. ERROR carries its kind in ERR_KIND. -/
inductive BlockState where
  | idle | readBlockHeader | storedBlock | fixedBlock | dynamicBlock | done | error
  deriving DecidableEq, Repr

/-- Which element the procedure of a Huffman block reads next: the position in the pseudocode of R158 and R180, which the spec
implies and does not name (assumption 4). -/
inductive LoopPos where
  /-- R161: the code-length elements of a dynamic block's header. -/
  | lengths
  /-- R180: a literal/length symbol. -/
  | symbols
  /-- R185: the distance symbol that follows a length symbol. -/
  | distance
  deriving DecidableEq, Repr

/-- R130: what a slot of a decode table holds. -/
inductive Slot where
  /-- No code reaches this slot. -/
  | empty
  /-- A terminal symbol. -/
  | leaf (s : Nat)
  /-- A pointer to an internal node. -/
  | node (k : Nat)
  deriving DecidableEq, Repr

/-- R220: the five error kinds. -/
inductive ErrKind where
  | invalidBlockLength | invalidBlockData | invalidEncoding | oversubscribedCode | endOfInput
  deriving DecidableEq, Repr

/-- R21: the interface registers, by name. -/
inductive HostReg where
  | ctrl | status | inLen | outCap | byteOff | bitOff | outPos | inBase | outBase
  deriving DecidableEq, Repr

/-- One access of the host, to a register or to a buffer it owns (R21, R44, R252). -/
inductive HostAccess where
  | write (r : HostReg) (v : Data)
  | read (r : HostReg)
  | writeIn (a : Nat) (v : Byte)
  | readIn (a : Nat)
  | writeOut (a : Nat) (v : Byte)
  | readOut (a : Nat)
  deriving DecidableEq, Repr

/-- What the host does next (assumption 5). -/
inductive HostOp where
  /-- The access is made now, whether or not a DECODE runs. -/
  | access (a : HostAccess)
  /-- The host lets the engine take one step. -/
  | slot
  /-- R252 (5): the host polls STATUS until DONE = 1, and the engine runs on until then. -/
  | pollDone
  /-- R44, R250: the engine is reset. -/
  | reset
  deriving DecidableEq, Repr

/-- A buffer as the bytes that are not 0, by strictly rising offset (assumption 2). -/
abbrev Memory := List Host.Cell

/-- R22, R23, R21: the interface registers the engine only reads. -/
structure HostRegs where
  inLen : Nat
  outCap : Nat
  inBase : Nat
  outBase : Nat
  deriving DecidableEq, Repr

/-- R24: the bit cursor, the engine's program counter. -/
structure Cursor where
  byteOff : Nat
  bitOff : BitVec 3
  deriving DecidableEq, Repr

/-- R27: the fields of STATUS. -/
structure Status where
  busy : Bool
  done : Bool
  errKind : BitVec 3
  truncated : Bool
  deriving DecidableEq, Repr

/-- R30 to R33: what the headers of the current block held. -/
structure BlockRegs where
  bfinal : BitVec 1
  btype : BitVec 2
  lenR : BitVec 16
  nlenR : BitVec 16
  hlit : BitVec 9
  hdist : BitVec 6
  hclen : BitVec 5
  deriving DecidableEq, Repr

/-- R35: the sequence of code lengths of a dynamic block, and its index. -/
structure SeqRegs where
  lenSeq : Vector (BitVec 4) 320
  lsI : BitVec 9
  deriving DecidableEq, Repr

/-- R34, R36, R37, R39: one alphabet of `n` symbols: its code lengths, its codes, its decode table and the table's node counter. -/
structure Huff (n lenW codeW : Nat) where
  lens : Vector (BitVec lenW) n
  codes : Vector (BitVec codeW) n
  trie : Vector Slot (2 * (n - 1))
  nodes : BitVec 9
  deriving DecidableEq, Repr

/-- R38: the builder's scratch. NEXT_CODE[L] stands at index L - 1. -/
structure Scratch where
  blCount : Vector (BitVec 16) 16
  nextCode : Vector (BitVec 16) 15
  deriving DecidableEq, Repr

/-- R41 to R43: the registers of the symbol loop, the decoder's walk position and the copy counter. -/
structure SymbolRegs where
  sym : BitVec 9
  dsym : BitVec 5
  mlen : BitVec 9
  mdist : BitVec 16
  tpos : BitVec 9
  copyLeft : BitVec 16
  deriving DecidableEq, Repr

/-- The whole machine. -/
structure State where
  /-- The parameters; no step writes them. -/
  cfg : Config
  /-- IN_LEN, OUT_CAP, IN_BASE, OUT_BASE. -/
  regs : HostRegs
  /-- BYTE_OFF and BIT_OFF. -/
  cur : Cursor
  /-- OUT_POS (R25). -/
  outPos : Nat
  /-- STATUS. -/
  status : Status
  /-- STATE (R29). -/
  blk : BlockState
  /-- The element a Huffman block reads next. -/
  loopAt : LoopPos
  /-- BFINAL_L, BTYPE_L, LEN_R, NLEN_R, HLIT_R, HDIST_R, HCLEN_R. -/
  hdr : BlockRegs
  /-- LENSEQ and LS_I. -/
  seq : SeqRegs
  /-- CL_LEN, CL_CODE, CL_TRIE, NODES_CL. -/
  cl : Huff 19 3 7
  /-- LL_LEN, LL_CODE, LL_TRIE, NODES_LL. -/
  ll : Huff 288 4 15
  /-- D_LEN, D_CODE, D_TRIE, NODES_D. -/
  dist : Huff 32 4 15
  /-- BL_COUNT and NEXT_CODE. -/
  scratch : Scratch
  /-- SYM, DSYM, MLEN, MDIST, TPOS, the copy counter. -/
  syms : SymbolRegs
  /-- The input buffer IN (R50). -/
  inBuf : Memory
  /-- The output buffer OUT (R51). -/
  outBuf : Memory
  /-- What the host does next, first entry first. -/
  hostQ : List HostOp
  /-- The data of the host's last read, if it has read. -/
  hostRd : Option Data
  deriving DecidableEq, Repr

/-- Why the machine stops with a fault. -/
inductive Fault where
  /-- Raised by every advance of the cursor to a next byte: BYTE_OFF would reach 2^ADDR_W (R9, D2). Safe: no wrap is admitted. -/
  | byteOffOverflow
  /-- Raised by the sink: OUT_POS would reach 2^ADDR_W (R9, R190, D2). Safe: no wrap is admitted. -/
  | outPosOverflow
  /-- Raised by fetch in a state no run reaches: BUSY with a STATE that reads no element, or a table leaf outside its alphabet
  (R150, R130). Safe: no run of the engine stops here. -/
  | sessionCorrupt
  deriving DecidableEq, Repr

/-- Why a step is refused. -/
inductive Refusal where
  /-- Raised by an arm of exec whose instruction has no meaning yet. Safe. -/
  | notModelled (mnemonic : String)
  /-- Raised by DECODE while BUSY = 1 (R201: "the model refuses it"). Safe. -/
  | startWhileBusy
  /-- Raised by DECODE when IN_LEN, BYTE_OFF, OUT_CAP or OUT_POS is not below 2^ADDR_W (R202 (b)). Safe. -/
  | launchWidth
  /-- Raised by DECODE when IN and OUT overlap (R67, R202 (c), R255). Safe. -/
  | buffersOverlap
  /-- Raised by the host port: an access other than a read of STATUS while BUSY = 1 (R60, R254, R257). Safe. -/
  | hostAccessWhileBusy
  /-- Raised by the platform: a launch whose OUT overlaps a buffer of another engine, or whose IN overlaps another's OUT (R235).
  Safe. -/
  | enginesOverlap
  /-- Raised by the platform: there is no engine of that number (R12). Safe. -/
  | noSuchEngine
  deriving DecidableEq, Repr

namespace State

/-- An alphabet whose arrays hold nothing: no lengths, codes 0, every slot EMPTY. DESIGN CHOICE (assumption 6): R250 gives no reset
value. -/
def blankHuff (n lenW codeW : Nat) : Huff n lenW codeW :=
  { lens := Vector.replicate n 0, codes := Vector.replicate n 0, trie := Vector.replicate (2 * (n - 1)) .empty, nodes := 0 }

/-- R250 for the parameters `c`: STATE = IDLE and STATUS all 0. Every other register is "unspecified" there, and holds 0 here
(DESIGN CHOICE, assumption 6). The host has nothing pending. -/
def resetWith (c : Config) : State :=
  { cfg := c
    regs := { inLen := 0, outCap := 0, inBase := 0, outBase := 0 }
    cur := { byteOff := 0, bitOff := 0 }
    outPos := 0
    status := { busy := false, done := false, errKind := 0, truncated := false }
    blk := .idle
    loopAt := .symbols
    hdr := { bfinal := 0, btype := 0, lenR := 0, nlenR := 0, hlit := 0, hdist := 0, hclen := 0 }
    seq := { lenSeq := Vector.replicate 320 0, lsI := 0 }
    cl := blankHuff 19 3 7
    ll := blankHuff 288 4 15
    dist := blankHuff 32 4 15
    scratch := { blCount := Vector.replicate 16 0, nextCode := Vector.replicate 15 0 }
    syms := { sym := 0, dsym := 0, mlen := 0, mdist := 0, tpos := 0, copyLeft := 0 }
    inBuf := []
    outBuf := []
    hostQ := []
    hostRd := none }

/-- The machine right after reset. -/
def reset : State := resetWith Config.standard

end State

end Sys2Proof.Machine
end

