-- ==== Sys2Proof/Machine/Flags.lean ====
section
/-! DEFINITION. The status word and the error codes (spec R27, R28, R220). -/

namespace Sys2Proof.Machine

/-- R220: the code of an error kind; 0 is success, 6 and 7 are never produced. -/
def errCode : ErrKind → BitVec 3
  | .invalidBlockLength => 1
  | .invalidBlockData => 2
  | .invalidEncoding => 3
  | .oversubscribedCode => 4
  | .endOfInput => 5

/-- R27: STATUS as the host reads it: BUSY bit 0, DONE bit 1, ERR_KIND bits 4 to 2, TRUNCATED bit 5, the rest 0. -/
def statusWord (t : Status) : Data :=
  BitVec.ofNat 32 (t.busy.toNat + 2 * t.done.toNat + 4 * t.errKind.toNat + 32 * t.truncated.toNat)

/-- R220: the kind of a code; none for 0, which is success, and for 6 and 7. -/
def errOfCode (c : BitVec 3) : Option ErrKind :=
  match c.toNat with
  | 1 => some .invalidBlockLength
  | 2 => some .invalidBlockData
  | 3 => some .invalidEncoding
  | 4 => some .oversubscribedCode
  | 5 => some .endOfInput
  | _ => none

/-- R28: the result of a DECODE as the source's function returns it: the kind of the error, none for `Ok(())`, and the truncation
indication. Meaningful only while DONE = 1 (R27). -/
def decodeResult (t : Status) : Option ErrKind × Bool := (errOfCode t.errKind, t.truncated)

end Sys2Proof.Machine
end

