-- ==== Sys2Proof/Machine/Operands.lean ====
section
/-! DEFINITION. The constant tables and the assembly of operands (spec/41_code_tables.md, R81, R163 to R165), and the accessors of
the fixed-size arrays. -/

namespace Sys2Proof.Machine

/-! ## Arrays -/

/-- Entry `i` of an array; `d` outside it, where no rule reads. -/
def tabGet {α : Type} {n : Nat} (v : Vector α n) (i : Nat) (d : α) : α := v.toList.getD i d

/-- The array with entry `i` written; an index outside it, where no rule writes, changes nothing. -/
def tabSet {α : Type} {n : Nat} (v : Vector α n) (i : Nat) (a : α) : Vector α n := ⟨⟨v.toList.set i a⟩, by simp⟩

/-- The array of `n` entries that begins as the list does; `d` fills what the list leaves. -/
def tabOfList {α : Type} (n : Nat) (l : List α) (d : α) : Vector α n := ⟨⟨(l ++ List.replicate n d).take n⟩, by simp⟩

/-! ## Length, distance and code-length-order tables -/

/-- R110: LEN_EXTRA[j] for j = SYM - 257. -/
def lenExtra : List Nat :=
  [0, 0, 0, 0, 0, 0, 0, 0, 1, 1, 1, 1, 2, 2, 2, 2, 3, 3, 3, 3, 4, 4, 4, 4, 5, 5, 5, 5, 0]

/-- R110: LEN_BASE[j]. -/
def lenBase : List Nat :=
  [3, 4, 5, 6, 7, 8, 9, 10, 11, 13, 15, 17, 19, 23, 27, 31, 35, 43, 51, 59, 67, 83, 99, 115, 131, 163, 195, 227, 258]

/-- R111: DIST_EXTRA[DSYM]. -/
def distExtra : List Nat :=
  [0, 0, 0, 0, 1, 1, 2, 2, 3, 3, 4, 4, 5, 5, 6, 6, 7, 7, 8, 8, 9, 9, 10, 10, 11, 11, 12, 12, 13, 13]

/-- R111: DIST_BASE[DSYM]. -/
def distBase : List Nat :=
  [1, 2, 3, 4, 5, 7, 9, 13, 17, 25, 33, 49, 65, 97, 129, 193, 257, 385, 513, 769, 1025, 1537, 2049, 3073, 4097, 6145, 8193, 12289,
   16385, 24577]

/-- R112: CLCL_ORDER[j]. -/
def clclOrder : List Nat := [16, 17, 18, 0, 8, 7, 9, 6, 10, 5, 11, 4, 12, 3, 13, 2, 14, 1, 15]

/-- R113: the fixed literal/length code lengths. -/
def fixedLlLens : List Nat := List.replicate 144 8 ++ List.replicate 112 9 ++ List.replicate 24 7 ++ List.replicate 8 8

/-- R114: the fixed distance code lengths. -/
def fixedDLens : List Nat := List.replicate 32 5

/-! ## Operand assembly: a base plus a field, unsigned and exact (R81) -/

/-- R158: HLIT from its 5-bit field. -/
def hlitOf (f : Nat) : Nat := f + 257

/-- R158: HDIST from its 5-bit field. -/
def hdistOf (f : Nat) : Nat := f + 1

/-- R158: HCLEN from its 4-bit field. -/
def hclenOf (f : Nat) : Nat := f + 4

/-- R183: MLEN of the length symbol 257 + j with the extra value x. -/
def mlenOf (j x : Nat) : Nat := lenBase.getD j 0 + x

/-- R185: MDIST of a distance symbol with the extra value x. -/
def mdistOf (dsym x : Nat) : Nat := distBase.getD dsym 0 + x

/-- R163: the count of REP_PREV from its 2-bit field. -/
def repPrevCount (f : Nat) : Nat := 3 + f

/-- R164: the count of REP_ZERO from its 3-bit field. -/
def repZeroCount (f : Nat) : Nat := 3 + f

/-- R165: the count of REP_ZERO_LONG from its 7-bit field. -/
def repZeroLongCount (f : Nat) : Nat := 11 + f

/-! ## The fixed decode tables (R40, R117), constants -/

/-- R130: the slot a raw value stands for, in the table of an alphabet of `n` symbols: 1023 is EMPTY, a value below `n` is a leaf, any
other a pointer to the node `raw - n`. -/
def slotOfRaw (n raw : Nat) : Slot := if raw = 1023 then .empty else if raw < n then .leaf raw else .node (raw - n)

/-- R130: the raw value of a slot. -/
def rawOfSlot (n : Nat) : Slot → Nat
  | .empty => 1023
  | .leaf s => s
  | .node k => n + k

/-- R40, R117: the raw slots of FIXED_LL_TRIE. -/
def fixedLlRaw : List Nat :=
  ([289, 370, 290, 307, 546, 291, 561, 292, 293, 300, 294, 297, 295, 296, 0, 1, 2, 3, 298, 299, 4, 5, 6, 7] ++
   [301, 304, 302, 303, 8, 9, 10, 11, 305, 306, 12, 13, 14, 15, 308, 339, 309, 324, 310, 317, 311, 314, 312, 313] ++
   [16, 17, 18, 19, 315, 316, 20, 21, 22, 23, 318, 321, 319, 320, 24, 25, 26, 27, 322, 323, 28, 29, 30, 31] ++
   [325, 332, 326, 329, 327, 328, 32, 33, 34, 35, 330, 331, 36, 37, 38, 39, 333, 336, 334, 335, 40, 41, 42, 43] ++
   [337, 338, 44, 45, 46, 47, 340, 355, 341, 348, 342, 345, 343, 344, 48, 49, 50, 51, 346, 347, 52, 53, 54, 55] ++
   [349, 352, 350, 351, 56, 57, 58, 59, 353, 354, 60, 61, 62, 63, 356, 363, 357, 360, 358, 359, 64, 65, 66, 67] ++
   [361, 362, 68, 69, 70, 71, 364, 367, 365, 366, 72, 73, 74, 75, 368, 369, 76, 77, 78, 79, 371, 434, 372, 403] ++
   [373, 388, 374, 381, 375, 378, 376, 377, 80, 81, 82, 83, 379, 380, 84, 85, 86, 87, 382, 385, 383, 384, 88, 89] ++
   [90, 91, 386, 387, 92, 93, 94, 95, 389, 396, 390, 393, 391, 392, 96, 97, 98, 99, 394, 395, 100, 101, 102, 103] ++
   [397, 400, 398, 399, 104, 105, 106, 107, 401, 402, 108, 109, 110, 111, 404, 419, 405, 412, 406, 409, 407, 408, 112, 113] ++
   [114, 115, 410, 411, 116, 117, 118, 119, 413, 416, 414, 415, 120, 121, 122, 123, 417, 418, 124, 125, 126, 127, 420, 427] ++
   [421, 424, 422, 423, 128, 129, 130, 131, 425, 426, 132, 133, 134, 135, 428, 431, 429, 430, 136, 137, 138, 139, 432, 433] ++
   [140, 141, 142, 143, 435, 483, 436, 452, 568, 437, 438, 445, 439, 442, 440, 441, 144, 145, 146, 147, 443, 444, 148, 149] ++
   [150, 151, 446, 449, 447, 448, 152, 153, 154, 155, 450, 451, 156, 157, 158, 159, 453, 468, 454, 461, 455, 458, 456, 457] ++
   [160, 161, 162, 163, 459, 460, 164, 165, 166, 167, 462, 465, 463, 464, 168, 169, 170, 171, 466, 467, 172, 173, 174, 175] ++
   [469, 476, 470, 473, 471, 472, 176, 177, 178, 179, 474, 475, 180, 181, 182, 183, 477, 480, 478, 479, 184, 185, 186, 187] ++
   [481, 482, 188, 189, 190, 191, 484, 515, 485, 500, 486, 493, 487, 490, 488, 489, 192, 193, 194, 195, 491, 492, 196, 197] ++
   [198, 199, 494, 497, 495, 496, 200, 201, 202, 203, 498, 499, 204, 205, 206, 207, 501, 508, 502, 505, 503, 504, 208, 209] ++
   [210, 211, 506, 507, 212, 213, 214, 215, 509, 512, 510, 511, 216, 217, 218, 219, 513, 514, 220, 221, 222, 223, 516, 531] ++
   [517, 524, 518, 521, 519, 520, 224, 225, 226, 227, 522, 523, 228, 229, 230, 231, 525, 528, 526, 527, 232, 233, 234, 235] ++
   [529, 530, 236, 237, 238, 239, 532, 539, 533, 536, 534, 535, 240, 241, 242, 243, 537, 538, 244, 245, 246, 247, 540, 543] ++
   [541, 542, 248, 249, 250, 251, 544, 545, 252, 253, 254, 255, 547, 554, 548, 551, 549, 550, 256, 257, 258, 259, 552, 553] ++
   [260, 261, 262, 263, 555, 558, 556, 557, 264, 265, 266, 267, 559, 560, 268, 269, 270, 271, 562, 565, 563, 564, 272, 273] ++
   [274, 275, 566, 567, 276, 277, 278, 279, 569, 572, 570, 571, 280, 281, 282, 283, 573, 574, 284, 285, 286, 287] : List Nat)

/-- R40, R117: the raw slots of FIXED_D_TRIE. -/
def fixedDRaw : List Nat :=
  ([33, 48, 34, 41, 35, 38, 36, 37, 0, 1, 2, 3, 39, 40, 4, 5, 6, 7, 42, 45, 43, 44, 8, 9] ++
   [10, 11, 46, 47, 12, 13, 14, 15, 49, 56, 50, 53, 51, 52, 16, 17, 18, 19, 54, 55, 20, 21, 22, 23] ++
   [57, 60, 58, 59, 24, 25, 26, 27, 61, 62, 28, 29, 30, 31] : List Nat)

/-- R40: FIXED_LL_TRIE. -/
def fixedLlTrie : Vector Slot (2 * (288 - 1)) := tabOfList _ (fixedLlRaw.map (slotOfRaw 288)) .empty

/-- R40: FIXED_D_TRIE. -/
def fixedDTrie : Vector Slot (2 * (32 - 1)) := tabOfList _ (fixedDRaw.map (slotOfRaw 32)) .empty

end Sys2Proof.Machine
end

