-- ==== Sys2Proof/Machine/Huffman.lean ====
section
/-! DEFINITION. The canonical Huffman builder (spec/42_huffman_builder.md) and the decode-table compiler
(spec/43_decode_table.md), on lists, and their effect on the arrays of one alphabet. -/

namespace Sys2Proof.Machine

/-! ## The canonical codes -/

/-- R121: the sum over the used symbols of 2^(MAXLEN - length). -/
def kraftSum (maxLen : Nat) : List Nat → Nat
  | [] => 0
  | l :: lens => (if l = 0 then 0 else 2 ^ (maxLen - l)) + kraftSum maxLen lens

/-- R121: the lengths are not oversubscribed. -/
def kraftOk (maxLen : Nat) (lens : List Nat) : Bool := decide (kraftSum maxLen lens ≤ 2 ^ maxLen)

/-- R122: BL_COUNT[L], with BL_COUNT[0] = 0. -/
def blCountOf (lens : List Nat) (l : Nat) : Nat := if l = 0 then 0 else lens.count l

/-- R123: NEXT_CODE[L] before any symbol is assigned. -/
def firstCode (lens : List Nat) : Nat → Nat
  | 0 => 0
  | l + 1 => 2 * (firstCode lens l + blCountOf lens l)

/-- R124: the codes in symbol order, 0 for a symbol that has none, and NEXT_CODE afterwards; `next` holds NEXT_CODE[L] at index L. -/
def assignCodes : List Nat → List Nat → List Nat × List Nat
  | next, [] => ([], next)
  | next, l :: lens =>
    if l = 0 then
      let r := assignCodes next lens
      (0 :: r.1, r.2)
    else
      let c := next.getD l 0
      let r := assignCodes (next.set l (c + 1)) lens
      (c :: r.1, r.2)

/-- R120: the codes and the final NEXT_CODE, once the Kraft check has passed. -/
def assignAll (maxLen : Nat) (lens : List Nat) : List Nat × List Nat :=
  assignCodes ((List.range (maxLen + 1)).map (firstCode lens)) lens

/-- R120 BuildCodes: none is OversubscribedCode (R121). -/
def buildCodes (maxLen : Nat) (lens : List Nat) : Option (List Nat) :=
  if kraftOk maxLen lens then some (assignAll maxLen lens).1 else none

/-! ## The decode table -/

/-- R39: a decode table and its node counter. -/
structure Trie where
  slots : List Slot
  nodes : Nat
  deriving DecidableEq, Repr

/-- R131: every slot EMPTY, no node but the root. -/
def emptyTrie (n : Nat) : Trie := { slots := List.replicate (2 * (n - 1)) .empty, nodes := 0 }

/-- R132: the walk of one code of symbol `s` through the last `m` of its bits, from the node `k`. An error is OversubscribedCode
(R133, R134) and carries the table as it stands. -/
def insertCode (n s code : Nat) : Nat → Nat → Trie → Except Trie Trie
  | 0, _, t => .ok t
  | m + 1, k, t =>
    let slot := 2 * k + (code >>> m) % 2
    match t.slots.getD slot .empty, m with
    | .empty, 0 => .ok { t with slots := t.slots.set slot (.leaf s) }
    | _, 0 => .error t
    | .empty, m + 1 =>
      if n - 2 < t.nodes + 1 then .error t
      else insertCode n s code (m + 1) (t.nodes + 1) { slots := t.slots.set slot (.node (t.nodes + 1)), nodes := t.nodes + 1 }
    | .node j, m + 1 => insertCode n s code (m + 1) j t
    | .leaf _, _ + 1 => .error t

/-- R132: the symbols from `s` on, in ascending order. -/
def insertFrom (n : Nat) : Nat → List Nat → List Nat → Trie → Except Trie Trie
  | s, l :: lens, c :: codes, t =>
    match insertCode n s c l 0 t with
    | .ok t' => insertFrom n (s + 1) lens codes t'
    | .error t' => .error t'
  | _, _, _, t => .ok t

/-- R130 to R134 CompileTable. -/
def compileTable (n : Nat) (lens codes : List Nat) : Except Trie Trie := insertFrom n 0 lens codes (emptyTrie n)

/-! ## One alphabet's arrays -/

/-- What building one table leaves: the arrays, the scratch, and whether it succeeded. -/
structure Built (n lenW codeW : Nat) where
  huff : Huff n lenW codeW
  scratch : Scratch
  ok : Bool
  deriving DecidableEq, Repr

/-- The lengths of an alphabet as naturals. -/
def lensOf {n lenW codeW : Nat} (h : Huff n lenW codeW) : List Nat := h.lens.toList.map BitVec.toNat

/-- R38, R122: BL_COUNT[0 .. MAXLEN]; the entries above stay. -/
def countsAfter (maxLen : Nat) (lens : List Nat) (old : Vector (BitVec 16) 16) : Vector (BitVec 16) 16 :=
  tabOfList 16 ((List.range (maxLen + 1)).map (fun l => BitVec.ofNat 16 (blCountOf lens l)) ++ old.toList.drop (maxLen + 1)) 0

/-- R38, R124: NEXT_CODE[1 .. MAXLEN] as the assignment leaves it; the entries above stay. -/
def nextAfter (maxLen : Nat) (lens : List Nat) (old : Vector (BitVec 16) 15) : Vector (BitVec 16) 15 :=
  tabOfList 15 (((assignAll maxLen lens).2.drop 1).map (BitVec.ofNat 16) ++ old.toList.drop maxLen) 0

/-- R37, R124: CODES; the entry of a symbol with length 0 is not written. -/
def codesAfter {n codeW : Nat} (maxLen : Nat) (lens : List Nat) (old : Vector (BitVec codeW) n) : Vector (BitVec codeW) n :=
  tabOfList n (List.zipWith (fun p o => if p.1 = 0 then o else BitVec.ofNat codeW p.2)
    (lens.zip (assignAll maxLen lens).1) old.toList) 0

/-- R120 then R131, R132, R135: the codes and the decode table of one alphabet from its lengths. The Kraft check comes before
anything is written; a table that fails keeps what was written. -/
def buildTable {n lenW codeW : Nat} (maxLen : Nat) (h : Huff n lenW codeW) (sc : Scratch) : Built n lenW codeW :=
  let lens := lensOf h
  if kraftOk maxLen lens then
    let sc' : Scratch := { blCount := countsAfter maxLen lens sc.blCount, nextCode := nextAfter maxLen lens sc.nextCode }
    let put (t : Trie) (ok : Bool) : Built n lenW codeW :=
      { huff := { h with
          codes := codesAfter maxLen lens h.codes
          trie := tabOfList _ t.slots .empty
          nodes := BitVec.ofNat 9 t.nodes }
        scratch := sc'
        ok := ok }
    match compileTable n lens (assignAll maxLen lens).1 with
    | .ok t => put t true
    | .error t => put t false
  else { huff := h, scratch := sc, ok := false }

end Sys2Proof.Machine
end

