-- ==== Sys2Proof/Machine/Memory.lean ====
section
/-! DEFINITION. The buffers (spec R44, R50, R51) as lists of cells in one canonical form: offsets strictly rising, no byte 0. An
unlisted offset reads as 0 (assumption 2). -/

namespace Sys2Proof.Machine

/-- What an offset that is not listed reads as. DESIGN CHOICE (assumption 2): R44 leaves the contents of the buffers to the host. -/
def Memory.unlisted : Byte := 0

/-- The byte at an offset. -/
def Memory.read : Memory → Nat → Byte
  | [], _ => Memory.unlisted
  | (b, v) :: m, a => if a = b then v else if a < b then Memory.unlisted else Memory.read m a

/-- The cell of an offset and a byte, or nothing for the unlisted byte. -/
def Memory.cell (a : Nat) (v : Byte) : Memory := if v = Memory.unlisted then [] else [(a, v)]

/-- The memory with the byte `v` at the offset `a`. -/
def Memory.write : Memory → Nat → Byte → Memory
  | [], a, v => Memory.cell a v
  | (b, w) :: m, a, v =>
    if a < b then Memory.cell a v ++ (b, w) :: m
    else if a = b then Memory.cell a v ++ m
    else (b, w) :: Memory.write m a v

/-- Every listed offset is at or above `lo`, the offsets rise strictly, and no listed byte is the unlisted one. -/
def Memory.wfFrom : Nat → Memory → Bool
  | _, [] => true
  | lo, (a, v) :: m => decide (lo ≤ a) && v != Memory.unlisted && Memory.wfFrom (a + 1) m

/-- The canonical form. -/
def Memory.wf (m : Memory) : Bool := Memory.wfFrom 0 m

end Sys2Proof.Machine
end

