-- ==== Sys2Proof/Machine/Ops.lean ====
section
/-! DEFINITION. The operations every element is written from: how an element ends, taking an error (R227) and leaving it by a new START
(R203), the bit cursor (spec/40_bit_cursor.md), the output sink and the copy engine (spec/47_copy_and_sink.md), the symbol decoder
(spec/44_symbol_decoder.md), the length and distance parts of a COPY (spec/46_symbol_loop.md), the length sequence and the tables of
a dynamic block (spec/45_block_processor.md). -/

namespace Sys2Proof.Machine

/-- How an element ends before its last line. -/
inductive Stop where
  /-- R16: a rule executed `raise E()`. -/
  | raised (e : ErrKind)
  | fault (f : Fault)
  | refused (r : Refusal)
  deriving DecidableEq, Repr

/-- The pseudocode of the rules: what it has written when it stops stays written (R227). -/
abbrev M := EStateM Stop State

/-! ## Taking an error, and the only way out of one -/

/-- R227 (R205): error entry. Nothing but STATE, ERR_KIND, BUSY and DONE changes. -/
def enterError (e : ErrKind) (s : State) : State :=
  { s with blk := .error, status := { s.status with busy := false, done := true, errKind := errCode e } }

/-- R203: the start actions, from IDLE, DONE and ERROR alike. There is no other way to leave ERROR and no state to restore (R229). -/
def startActions (s : State) : State :=
  { s with blk := .readBlockHeader, status := { busy := true, done := false, errKind := 0#3, truncated := false } }

/-- R204: success completion. ERR_KIND stays 0. -/
def completeSuccess (s : State) : State :=
  { s with blk := .done, status := { s.status with busy := false, done := true } }

/-- The outcome of an element: a raised error is taken, and the machine goes on (R227). -/
def finish (m : M Unit) (s : State) : Host.Outcome State Fault Refusal :=
  match m s with
  | .ok _ s' => .next s'
  | .error (.raised e) s' => .next (enterError e s')
  | .error (.fault f) _ => .fault f
  | .error (.refused r) _ => .refused r

/-- R16. -/
def raise {α : Type} (e : ErrKind) : M α := throw (.raised e)

/-! ## The bit cursor -/

/-- The cursor moves to bit 0 of the next byte. R9: BYTE_OFF reaching 2^ADDR_W is a fault. -/
def advanceByte : M Unit := do
  let s ← get
  if 2 ^ s.cfg.addrW ≤ s.cur.byteOff + 1 then throw (.fault .byteOffOverflow)
  else set { s with cur := { byteOff := s.cur.byteOff + 1, bitOff := 0#3 } }

/-- R100 ReadBit: bit BIT_OFF of byte BYTE_OFF, bit 0 the least significant (R13, R53). -/
def readBit : M Bool := do
  let s ← get
  if s.regs.inLen ≤ s.cur.byteOff then raise .endOfInput
  else
    let b := (s.inBuf.read s.cur.byteOff).getLsbD s.cur.bitOff.toNat
    if s.cur.bitOff = 7#3 then
      advanceByte
      pure b
    else
      set { s with cur := { s.cur with bitOff := s.cur.bitOff + 1#3 } }
      pure b

/-- R101 ReadLSB(n), R106: the first bit consumed is bit 0 of the value; with n = 0 it is 0 and nothing is read. -/
def readLsb : Nat → M Nat
  | 0 => pure 0
  | n + 1 => do
    let b ← readBit
    let v ← readLsb n
    pure (b.toNat + 2 * v)

/-- R102: the loop of ReadMSB with the value `v` so far. -/
def readMsbFrom : Nat → Nat → M Nat
  | 0, v => pure v
  | n + 1, v => do
    let b ← readBit
    readMsbFrom n (2 * v + b.toNat)

/-- R102 ReadMSB(n): the first bit consumed is the most significant. -/
def readMsb (n : Nat) : M Nat := readMsbFrom n 0

/-- R103 AlignToByte: it reads no memory and does not check IN_LEN. -/
def alignToByte : M Unit := do
  let s ← get
  if s.cur.bitOff ≠ 0#3 then advanceByte else pure ()

/-- R104 ReadByte, at a byte boundary. -/
def readByte : M Byte := do
  let s ← get
  if s.regs.inLen ≤ s.cur.byteOff then raise .endOfInput
  else
    advanceByte
    pure (s.inBuf.read s.cur.byteOff)

/-- R105 ReadLE16, R55: little-endian, always. -/
def readLe16 : M Nat := do
  let lo ← readByte
  let hi ← readByte
  pure (lo.toNat + 256 * hi.toNat)

/-! ## The output sink and the copy engine -/

/-- R190 SinkWrite. R9: OUT_POS reaching 2^ADDR_W is a fault. -/
def sinkWrite (v : Byte) : M Unit := do
  let s ← get
  if 2 ^ s.cfg.addrW ≤ s.outPos + 1 then throw (.fault .outPosOverflow)
  else if s.outPos < s.regs.outCap then
    set { s with outBuf := s.outBuf.write s.outPos v, outPos := s.outPos + 1 }
  else set { s with status := { s.status with truncated := true }, outPos := s.outPos + 1 }

/-- R15, R69, R194: the byte a copy reads at the offset `a` of OUT; at or past OUT_CAP any byte, a free value. -/
def copySource (s : State) (a : Nat) : Byte :=
  if a < s.regs.outCap then s.outBuf.read a else Config.bytePastCap a s.outPos

/-- R43: the copy counter. -/
def setCopyLeft (n : Nat) : M Unit :=
  modify fun s => { s with syms := { s.syms with copyLeft := BitVec.ofNat 16 n } }

/-- R192: the loop of CopyBackReference; `n` bytes from `dist` behind OUT_POS, each visible to the next (R64, R193). -/
def copyBytes (dist : Nat) : Nat → M Unit
  | 0 => pure ()
  | n + 1 => do
    let s ← get
    sinkWrite (copySource s (s.outPos - dist))
    setCopyLeft n
    copyBytes dist n

/-- R192 CopyBackReference(len, dist). -/
def copyBackReference (len dist : Nat) : M Unit := do
  setCopyLeft len
  copyBytes dist len

/-- R156: the loop of the stored data, each byte written before the next is read. -/
def storedBytes : Nat → M Unit
  | 0 => pure ()
  | n + 1 => do
    let b ← readByte
    sinkWrite b
    setCopyLeft n
    storedBytes n

/-! ## The symbol decoder -/

/-- The bits of IN from the cursor to the end. -/
def bitsLeft (s : State) : Nat := 8 * s.regs.inLen - (8 * s.cur.byteOff + s.cur.bitOff.toNat)

/-- R42: the walk position. -/
def setTpos (k : Nat) : M Unit := modify fun s => { s with syms := { s.syms with tpos := BitVec.ofNat 9 k } }

/-- R140: the loop of DecodeSymbol from the node `k`, R141 at an EMPTY slot. Each pass consumes a bit or raises, so the fuel of
`decodeSymbol` never runs out. A slot outside the table, which no compiled table points to (R136 (a)), reads as EMPTY. -/
def walkTrie (t : List Slot) : Nat → Nat → M Nat
  | 0, _ => throw (.fault .sessionCorrupt)
  | fuel + 1, k => do
    setTpos k
    let bit ← readMsb 1
    match t.getD (2 * k + bit) .empty with
    | .empty => raise .invalidBlockData
    | .leaf s => pure s
    | .node j => walkTrie t fuel j

/-- R140 DecodeSymbol: TPOS starts at 0. -/
def decodeSymbol (t : List Slot) : M Nat := do
  let s ← get
  walkTrie t (bitsLeft s + 1) 0

/-- R90, R157, R180: the literal/length table of the current block: the fixed one in a fixed block, else the block's own. -/
def litlenTable (s : State) : List Slot :=
  if s.blk = .fixedBlock then fixedLlTrie.toList else s.ll.trie.toList

/-- R90, R157, R180: the distance table of the current block. -/
def distTable (s : State) : List Slot :=
  if s.blk = .fixedBlock then fixedDTrie.toList else s.dist.trie.toList

/-! ## The end of a block -/

/-- R167: DONE (R204) after the final block, else the next header at the current cursor. -/
def endOfBlock : M Unit :=
  modify fun s => if s.hdr.bfinal = 1#1 then completeSuccess s else { s with blk := .readBlockHeader }

/-! ## The parts of a COPY -/

/-- R180: SYM takes the decoded literal/length symbol. -/
def latchSym (sym : Nat) : M Unit := modify fun s => { s with syms := { s.syms with sym := BitVec.ofNat 9 sym } }

/-- R183, R184: the length part of a COPY, for the literal/length symbol `SYM = 257 + j`. The distance symbol comes next. -/
def copyLength (j : Nat) : M Unit := do
  latchSym (257 + j)
  if 28 < j then raise .invalidBlockData
  else
    let x ← readLsb (lenExtra.getD j 0)
    modify fun s => { s with syms := { s.syms with mlen := BitVec.ofNat 9 (mlenOf j x) }, loopAt := .distance }

/-- R185, R186, R187, R188: the distance part of a COPY and, when every check has passed, the copy of MLEN bytes. The next
literal/length symbol comes next. -/
def copyDistance (dsym : Nat) : M Unit := do
  modify fun s => { s with syms := { s.syms with dsym := BitVec.ofNat 5 dsym } }
  if 29 < dsym then raise .invalidBlockData
  else
    let x ← readLsb (distExtra.getD dsym 0)
    modify fun s => { s with syms := { s.syms with mdist := BitVec.ofNat 16 (mdistOf dsym x) } }
    let s ← get
    if s.outPos < s.syms.mdist.toNat then raise .invalidBlockData
    else
      copyBackReference s.syms.mlen.toNat s.syms.mdist.toNat
      modify fun s => { s with loopAt := .symbols }

/-! ## The header of a block -/

/-- R151: BFINAL_L and BTYPE_L as the header gives them. -/
def latchHeader (bfinal : Bool) (btype : Nat) : M Unit :=
  modify fun s => { s with hdr := { s.hdr with bfinal := BitVec.ofNat 1 bfinal.toNat, btype := BitVec.ofNat 2 btype } }

/-- R151 HDR: the three header bits as the value V of R72. BFINAL_L is written as soon as its bit is read; the meaning of the header
writes both fields. -/
def readHeader : M Nat := do
  let f ← readMsb 1
  modify fun s => { s with hdr := { s.hdr with bfinal := BitVec.ofNat 1 f } }
  let b0 ← readMsb 1
  let b1 ← readMsb 1
  pure (f + 2 * (b0 + 2 * b1))

/-! ## The length sequence of a dynamic block -/

/-- R161: TOTAL = HLIT_R + HDIST_R. -/
def seqTotal (s : State) : Nat := s.hdr.hlit.toNat + s.hdr.hdist.toNat

/-- R162 to R165: LENSEQ[LS_I] <- c ; LS_I <- LS_I + 1. -/
def putLength (c : BitVec 4) : M Unit :=
  modify fun s => { s with seq := { lenSeq := tabSet s.seq.lenSeq s.seq.lsI.toNat c, lsI := s.seq.lsI + 1#9 } }

/-- The repeat of R163 to R165. -/
def putLengths (c : BitVec 4) : Nat → M Unit
  | 0 => pure ()
  | n + 1 => do
    putLength c
    putLengths c n

/-- R163 to R165: a run of `r` lengths `c`, refused when it would pass TOTAL. -/
def putRun (c : BitVec 4) (r : Nat) : M Unit := do
  let s ← get
  if seqTotal s < s.seq.lsI.toNat + r then raise .invalidBlockData else putLengths c r

/-- R159: the code-length code lengths. `order` is what is left of CLCL_ORDER, `n` how many fields are left to read; the symbols after
them get length 0. -/
def readClLengths : List Nat → Nat → M Unit
  | [], _ => pure ()
  | p :: order, n => do
    let v ← readLsb (if n = 0 then 0 else 3)
    modify fun s => { s with cl := { s.cl with lens := tabSet s.cl.lens p (BitVec.ofNat 3 v) } }
    readClLengths order (n - 1)

/-- R160: the code-length table. -/
def buildClTable : M Unit := do
  let s ← get
  let r := buildTable 7 s.cl s.scratch
  set { s with cl := r.huff, scratch := r.scratch }
  if r.ok then pure () else raise .oversubscribedCode

/-- R161: LENSEQ[0 .. TOTAL - 1] <- 0 and LS_I <- 0; entries at or past TOTAL stay. The code-length elements come next. -/
def startSequence : M Unit :=
  modify fun s =>
    { s with
      seq := { lenSeq := tabOfList 320 (List.replicate (seqTotal s) 0 ++ s.seq.lenSeq.toList.drop (seqTotal s)) 0, lsI := 0#9 }
      loopAt := .lengths }

/-- R166: the lengths of the two alphabets from the sequence. -/
def splitSequence : M Unit :=
  modify fun s =>
    let l := s.seq.lenSeq.toList
    { s with
      ll := { s.ll with lens := tabOfList 288 (l.take s.hdr.hlit.toNat) 0 }
      dist := { s.dist with lens := tabOfList 32 ((l.drop s.hdr.hlit.toNat).take s.hdr.hdist.toNat) 0 } }

/-- R166: the block's two tables, literal/length first. The literal/length symbols come next. -/
def buildBlockTables : M Unit := do
  splitSequence
  let s ← get
  let r := buildTable 15 s.ll s.scratch
  set { s with ll := r.huff, scratch := r.scratch }
  if r.ok then
    let s ← get
    let q := buildTable 15 s.dist s.scratch
    set { s with dist := q.huff, scratch := q.scratch }
    if q.ok then modify fun s => { s with loopAt := .symbols } else raise .oversubscribedCode
  else raise .oversubscribedCode

end Sys2Proof.Machine
end

