-- ==== Sys2Proof/Machine/Block.lean ====
section
/-! DEFINITION. The block headers (spec R153, R154, R157, R158): what the block processor does for each block type. -/

namespace Sys2Proof.Machine

/-- R155, R156: the body of a stored block after its two length fields. -/
def storedBody : M Unit := do
  let s ← get
  if s.hdr.lenR.toNat + s.hdr.nlenR.toNat ≠ 0xFFFF then raise .invalidBlockLength
  else
    setCopyLeft s.hdr.lenR.toNat
    storedBytes s.hdr.lenR.toNat

/-- R154 STORED: the whole block, from the padding to its end (R167). -/
def execStored (bfinal : Bool) (s : State) : Host.Outcome State Fault Refusal :=
  finish (do
    latchHeader bfinal 0
    modify fun s => { s with blk := .storedBlock }
    alignToByte
    let len ← readLe16
    modify fun s => { s with hdr := { s.hdr with lenR := BitVec.ofNat 16 len } }
    let nlen ← readLe16
    modify fun s => { s with hdr := { s.hdr with nlenR := BitVec.ofNat 16 nlen } }
    storedBody
    endOfBlock) s

/-- R157 FIXED: LL_LEN and D_LEN take the fixed lengths, and the symbol loop begins with the fixed tables, which are constants (R117,
D26). -/
def execFixed (bfinal : Bool) (s : State) : Host.Outcome State Fault Refusal :=
  finish (do
    latchHeader bfinal 1
    modify fun s =>
      { s with
        blk := .fixedBlock
        ll := { s.ll with lens := tabOfList 288 (fixedLlLens.map (BitVec.ofNat 4)) 0 }
        dist := { s.dist with lens := tabOfList 32 (fixedDLens.map (BitVec.ofNat 4)) 0 }
        loopAt := .symbols }) s

/-- R158 to R161 DYNAMIC: the header counts, the code-length lengths and their table, and the length sequence made ready. The
code-length elements come next. -/
def execDynamic (bfinal : Bool) (s : State) : Host.Outcome State Fault Refusal :=
  finish (do
    latchHeader bfinal 2
    modify fun s => { s with blk := .dynamicBlock }
    let f ← readLsb 5
    modify fun s => { s with hdr := { s.hdr with hlit := BitVec.ofNat 9 (hlitOf f) } }
    let f ← readLsb 5
    modify fun s => { s with hdr := { s.hdr with hdist := BitVec.ofNat 6 (hdistOf f) } }
    let f ← readLsb 4
    modify fun s => { s with hdr := { s.hdr with hclen := BitVec.ofNat 5 (hclenOf f) } }
    readClLengths clclOrder (hclenOf f)
    buildClTable
    startSequence) s

/-- R153 RESERVED: InvalidEncoding, after the three header bits and before any body bit. -/
def execReserved (bfinal : Bool) (s : State) : Host.Outcome State Fault Refusal :=
  finish (do
    latchHeader bfinal 3
    raise .invalidEncoding) s

end Sys2Proof.Machine
end

