-- ==== Sys2Proof/Machine/CodeLength.lean ====
section
/-! DEFINITION. The code-length elements of a dynamic block's header (spec R162 to R165). -/

namespace Sys2Proof.Machine

/-- R162 CL_LIT: the length c at LS_I. A well-formed CL_LIT has no bit above the low four. -/
def execClLit (c : BitVec 5) (s : State) : Host.Outcome State Fault Refusal :=
  finish (putLength (c.setWidth 4)) s

/-- R163 REP_PREV: the extra bits, then the check for a previous length, then the check against TOTAL. -/
def execRepPrev (s : State) : Host.Outcome State Fault Refusal :=
  finish (do
    let x ← readLsb 2
    let s ← get
    if s.seq.lsI = 0#9 then raise .invalidBlockData
    else putRun (tabGet s.seq.lenSeq (s.seq.lsI.toNat - 1) 0) (repPrevCount x)) s

/-- R164 REP_ZERO. -/
def execRepZero (s : State) : Host.Outcome State Fault Refusal :=
  finish (do
    let x ← readLsb 3
    putRun 0 (repZeroCount x)) s

/-- R165 REP_ZERO_LONG. -/
def execRepZeroLong (s : State) : Host.Outcome State Fault Refusal :=
  finish (do
    let x ← readLsb 7
    putRun 0 (repZeroLongCount x)) s

end Sys2Proof.Machine
end

