-- ==== Sys2Proof/Machine/Distance.lean ====
section
/-! DEFINITION. The distance elements (spec R185 to R188): the 30 distance symbols, which complete a COPY, and the two symbols that
have a code and no meaning. -/

namespace Sys2Proof.Machine

/-- R185, R187, R188 DIST_0: base distance 1, 0 extra bits. -/
def execDist0 (s : State) : Host.Outcome State Fault Refusal := finish (copyDistance 0) s

/-- R185, R187, R188 DIST_1: base distance 2, 0 extra bits. -/
def execDist1 (s : State) : Host.Outcome State Fault Refusal := finish (copyDistance 1) s

/-- R185, R187, R188 DIST_2: base distance 3, 0 extra bits. -/
def execDist2 (s : State) : Host.Outcome State Fault Refusal := finish (copyDistance 2) s

/-- R185, R187, R188 DIST_3: base distance 4, 0 extra bits. -/
def execDist3 (s : State) : Host.Outcome State Fault Refusal := finish (copyDistance 3) s

/-- R185, R187, R188 DIST_4: base distance 5, 1 extra bits. -/
def execDist4 (s : State) : Host.Outcome State Fault Refusal := finish (copyDistance 4) s

/-- R185, R187, R188 DIST_5: base distance 7, 1 extra bits. -/
def execDist5 (s : State) : Host.Outcome State Fault Refusal := finish (copyDistance 5) s

/-- R185, R187, R188 DIST_6: base distance 9, 2 extra bits. -/
def execDist6 (s : State) : Host.Outcome State Fault Refusal := finish (copyDistance 6) s

/-- R185, R187, R188 DIST_7: base distance 13, 2 extra bits. -/
def execDist7 (s : State) : Host.Outcome State Fault Refusal := finish (copyDistance 7) s

/-- R185, R187, R188 DIST_8: base distance 17, 3 extra bits. -/
def execDist8 (s : State) : Host.Outcome State Fault Refusal := finish (copyDistance 8) s

/-- R185, R187, R188 DIST_9: base distance 25, 3 extra bits. -/
def execDist9 (s : State) : Host.Outcome State Fault Refusal := finish (copyDistance 9) s

/-- R185, R187, R188 DIST_10: base distance 33, 4 extra bits. -/
def execDist10 (s : State) : Host.Outcome State Fault Refusal := finish (copyDistance 10) s

/-- R185, R187, R188 DIST_11: base distance 49, 4 extra bits. -/
def execDist11 (s : State) : Host.Outcome State Fault Refusal := finish (copyDistance 11) s

/-- R185, R187, R188 DIST_12: base distance 65, 5 extra bits. -/
def execDist12 (s : State) : Host.Outcome State Fault Refusal := finish (copyDistance 12) s

/-- R185, R187, R188 DIST_13: base distance 97, 5 extra bits. -/
def execDist13 (s : State) : Host.Outcome State Fault Refusal := finish (copyDistance 13) s

/-- R185, R187, R188 DIST_14: base distance 129, 6 extra bits. -/
def execDist14 (s : State) : Host.Outcome State Fault Refusal := finish (copyDistance 14) s

/-- R185, R187, R188 DIST_15: base distance 193, 6 extra bits. -/
def execDist15 (s : State) : Host.Outcome State Fault Refusal := finish (copyDistance 15) s

/-- R185, R187, R188 DIST_16: base distance 257, 7 extra bits. -/
def execDist16 (s : State) : Host.Outcome State Fault Refusal := finish (copyDistance 16) s

/-- R185, R187, R188 DIST_17: base distance 385, 7 extra bits. -/
def execDist17 (s : State) : Host.Outcome State Fault Refusal := finish (copyDistance 17) s

/-- R185, R187, R188 DIST_18: base distance 513, 8 extra bits. -/
def execDist18 (s : State) : Host.Outcome State Fault Refusal := finish (copyDistance 18) s

/-- R185, R187, R188 DIST_19: base distance 769, 8 extra bits. -/
def execDist19 (s : State) : Host.Outcome State Fault Refusal := finish (copyDistance 19) s

/-- R185, R187, R188 DIST_20: base distance 1025, 9 extra bits. -/
def execDist20 (s : State) : Host.Outcome State Fault Refusal := finish (copyDistance 20) s

/-- R185, R187, R188 DIST_21: base distance 1537, 9 extra bits. -/
def execDist21 (s : State) : Host.Outcome State Fault Refusal := finish (copyDistance 21) s

/-- R185, R187, R188 DIST_22: base distance 2049, 10 extra bits. -/
def execDist22 (s : State) : Host.Outcome State Fault Refusal := finish (copyDistance 22) s

/-- R185, R187, R188 DIST_23: base distance 3073, 10 extra bits. -/
def execDist23 (s : State) : Host.Outcome State Fault Refusal := finish (copyDistance 23) s

/-- R185, R187, R188 DIST_24: base distance 4097, 11 extra bits. -/
def execDist24 (s : State) : Host.Outcome State Fault Refusal := finish (copyDistance 24) s

/-- R185, R187, R188 DIST_25: base distance 6145, 11 extra bits. -/
def execDist25 (s : State) : Host.Outcome State Fault Refusal := finish (copyDistance 25) s

/-- R185, R187, R188 DIST_26: base distance 8193, 12 extra bits. -/
def execDist26 (s : State) : Host.Outcome State Fault Refusal := finish (copyDistance 26) s

/-- R185, R187, R188 DIST_27: base distance 12289, 12 extra bits. -/
def execDist27 (s : State) : Host.Outcome State Fault Refusal := finish (copyDistance 27) s

/-- R185, R187, R188 DIST_28: base distance 16385, 13 extra bits. -/
def execDist28 (s : State) : Host.Outcome State Fault Refusal := finish (copyDistance 28) s

/-- R185, R187, R188 DIST_29: base distance 24577, 13 extra bits. -/
def execDist29 (s : State) : Host.Outcome State Fault Refusal := finish (copyDistance 29) s

/-- R186: distance symbol 30 has no table entry; InvalidBlockData before any extra bit is read. -/
def execInvalidD30 (s : State) : Host.Outcome State Fault Refusal := finish (copyDistance 30) s

/-- R186: distance symbol 31 has no table entry; InvalidBlockData before any extra bit is read. -/
def execInvalidD31 (s : State) : Host.Outcome State Fault Refusal := finish (copyDistance 31) s

end Sys2Proof.Machine
end

