-- ==== Sys2Proof/Machine/HostCommand.lean ====
section
/-! DEFINITION. The host command DECODE (spec R200 to R203): its refusals and the start actions. -/

namespace Sys2Proof.Machine

/-- R67, R255: the intervals `[base, base + len)` of two buffers have an address in common. -/
def overlap (base len base' len' : Nat) : Bool :=
  decide (0 < len) && decide (0 < len') && decide (base < base' + len') && decide (base' < base + len)

/-- R202 (b): the launch widths. -/
def launchWidthOk (s : State) : Bool :=
  decide (s.regs.inLen < 2 ^ s.cfg.addrW) && decide (s.cur.byteOff < 2 ^ s.cfg.addrW) &&
    decide (s.regs.outCap < 2 ^ s.cfg.addrW) && decide (s.outPos < 2 ^ s.cfg.addrW)

/-- R202 (c): IN and OUT of this engine. R202 (a) holds by the type of BIT_OFF. -/
def buffersOverlap (s : State) : Bool := overlap s.regs.inBase s.regs.inLen s.regs.outBase s.regs.outCap

/-- R200 DECODE: refused while BUSY (R201) or when a launch premise fails (R202), else the start actions (R203). The run itself is the
steps that follow (R150). -/
def execDecode (s : State) : Host.Outcome State Fault Refusal :=
  finish (do
    let s ← get
    if s.status.busy then throw (.refused .startWhileBusy)
    else if !launchWidthOk s then throw (.refused .launchWidth)
    else if buffersOverlap s then throw (.refused .buffersOverlap)
    else set (startActions s)) s

end Sys2Proof.Machine
end

