-- ==== Sys2Proof/Machine/Litlen.lean ====
section
/-! DEFINITION. The literal/length elements (spec R181 to R184): a literal byte, the end of a block, the 29 length symbols, and the
two symbols that have a code and no meaning. -/

namespace Sys2Proof.Machine

/-- R181 LIT: SYM takes the symbol value (R180) and its low 8 bits go to the sink. A well-formed LIT has no other bits. -/
def execLit (sym : BitVec 9) (s : State) : Host.Outcome State Fault Refusal :=
  finish (do latchSym sym.toNat; sinkWrite (sym.setWidth 8)) s

/-- R182 EOB: SYM takes 256 and control returns to the block processor, which ends the block (R167). -/
def execEob (s : State) : Host.Outcome State Fault Refusal :=
  finish (do latchSym 256; endOfBlock) s

/-- R183 LEN_257: base length 3, 0 extra bits. -/
def execLen257 (s : State) : Host.Outcome State Fault Refusal := finish (copyLength 0) s

/-- R183 LEN_258: base length 4, 0 extra bits. -/
def execLen258 (s : State) : Host.Outcome State Fault Refusal := finish (copyLength 1) s

/-- R183 LEN_259: base length 5, 0 extra bits. -/
def execLen259 (s : State) : Host.Outcome State Fault Refusal := finish (copyLength 2) s

/-- R183 LEN_260: base length 6, 0 extra bits. -/
def execLen260 (s : State) : Host.Outcome State Fault Refusal := finish (copyLength 3) s

/-- R183 LEN_261: base length 7, 0 extra bits. -/
def execLen261 (s : State) : Host.Outcome State Fault Refusal := finish (copyLength 4) s

/-- R183 LEN_262: base length 8, 0 extra bits. -/
def execLen262 (s : State) : Host.Outcome State Fault Refusal := finish (copyLength 5) s

/-- R183 LEN_263: base length 9, 0 extra bits. -/
def execLen263 (s : State) : Host.Outcome State Fault Refusal := finish (copyLength 6) s

/-- R183 LEN_264: base length 10, 0 extra bits. -/
def execLen264 (s : State) : Host.Outcome State Fault Refusal := finish (copyLength 7) s

/-- R183 LEN_265: base length 11, 1 extra bits. -/
def execLen265 (s : State) : Host.Outcome State Fault Refusal := finish (copyLength 8) s

/-- R183 LEN_266: base length 13, 1 extra bits. -/
def execLen266 (s : State) : Host.Outcome State Fault Refusal := finish (copyLength 9) s

/-- R183 LEN_267: base length 15, 1 extra bits. -/
def execLen267 (s : State) : Host.Outcome State Fault Refusal := finish (copyLength 10) s

/-- R183 LEN_268: base length 17, 1 extra bits. -/
def execLen268 (s : State) : Host.Outcome State Fault Refusal := finish (copyLength 11) s

/-- R183 LEN_269: base length 19, 2 extra bits. -/
def execLen269 (s : State) : Host.Outcome State Fault Refusal := finish (copyLength 12) s

/-- R183 LEN_270: base length 23, 2 extra bits. -/
def execLen270 (s : State) : Host.Outcome State Fault Refusal := finish (copyLength 13) s

/-- R183 LEN_271: base length 27, 2 extra bits. -/
def execLen271 (s : State) : Host.Outcome State Fault Refusal := finish (copyLength 14) s

/-- R183 LEN_272: base length 31, 2 extra bits. -/
def execLen272 (s : State) : Host.Outcome State Fault Refusal := finish (copyLength 15) s

/-- R183 LEN_273: base length 35, 3 extra bits. -/
def execLen273 (s : State) : Host.Outcome State Fault Refusal := finish (copyLength 16) s

/-- R183 LEN_274: base length 43, 3 extra bits. -/
def execLen274 (s : State) : Host.Outcome State Fault Refusal := finish (copyLength 17) s

/-- R183 LEN_275: base length 51, 3 extra bits. -/
def execLen275 (s : State) : Host.Outcome State Fault Refusal := finish (copyLength 18) s

/-- R183 LEN_276: base length 59, 3 extra bits. -/
def execLen276 (s : State) : Host.Outcome State Fault Refusal := finish (copyLength 19) s

/-- R183 LEN_277: base length 67, 4 extra bits. -/
def execLen277 (s : State) : Host.Outcome State Fault Refusal := finish (copyLength 20) s

/-- R183 LEN_278: base length 83, 4 extra bits. -/
def execLen278 (s : State) : Host.Outcome State Fault Refusal := finish (copyLength 21) s

/-- R183 LEN_279: base length 99, 4 extra bits. -/
def execLen279 (s : State) : Host.Outcome State Fault Refusal := finish (copyLength 22) s

/-- R183 LEN_280: base length 115, 4 extra bits. -/
def execLen280 (s : State) : Host.Outcome State Fault Refusal := finish (copyLength 23) s

/-- R183 LEN_281: base length 131, 5 extra bits. -/
def execLen281 (s : State) : Host.Outcome State Fault Refusal := finish (copyLength 24) s

/-- R183 LEN_282: base length 163, 5 extra bits. -/
def execLen282 (s : State) : Host.Outcome State Fault Refusal := finish (copyLength 25) s

/-- R183 LEN_283: base length 195, 5 extra bits. -/
def execLen283 (s : State) : Host.Outcome State Fault Refusal := finish (copyLength 26) s

/-- R183 LEN_284: base length 227, 5 extra bits. -/
def execLen284 (s : State) : Host.Outcome State Fault Refusal := finish (copyLength 27) s

/-- R183 LEN_285: base length 258, 0 extra bits. -/
def execLen285 (s : State) : Host.Outcome State Fault Refusal := finish (copyLength 28) s

/-- R184: symbol 286 has no table entry; InvalidBlockData before any extra bit is read. -/
def execInvalid286 (s : State) : Host.Outcome State Fault Refusal := finish (copyLength 29) s

/-- R184: symbol 287 has no table entry; InvalidBlockData before any extra bit is read. -/
def execInvalid287 (s : State) : Host.Outcome State Fault Refusal := finish (copyLength 30) s

end Sys2Proof.Machine
end

