-- ==== Sys2Proof/Machine/Engine.lean ====
section
/-! DEFINITION. Reading the next element and running it (spec R91, R150, R161, R180). -/

namespace Sys2Proof.Machine

/-- R91, R150: the format the engine reads next; none where STATE reads no element. -/
def nextFormat (s : State) : Option Format :=
  match s.blk, s.loopAt with
  | .readBlockHeader, _ => some .blockHeader
  | .fixedBlock, .symbols => some .litlenSymbol
  | .fixedBlock, .distance => some .distSymbol
  | .dynamicBlock, .symbols => some .litlenSymbol
  | .dynamicBlock, .distance => some .distSymbol
  | .dynamicBlock, .lengths => some .clSymbol
  | _, _ => none

/-- The value of the next element of a stream format: the header bits (R151) or a decoded symbol (R161, R180, R185). -/
def fetchValue (f : Format) : M Nat := do
  let s ← get
  match f with
  | .blockHeader => readHeader
  | .litlenSymbol => decodeSymbol (litlenTable s)
  | .distSymbol => decodeSymbol (distTable s)
  | .clSymbol => decodeSymbol s.cl.trie.toList
  | .hostCommand => throw (.fault .sessionCorrupt)

/-- The next element of the stream, its code read and no more. A value that is no instruction of its format comes from a leaf outside
its alphabet, which no compiled table holds (R130). -/
def fetch : M Instr := do
  let s ← get
  match nextFormat s with
  | none => throw (.fault .sessionCorrupt)
  | some f =>
    let v ← fetchValue f
    match decode f v with
    | .ok i => pure i
    | .error _ => throw (.fault .sessionCorrupt)

/-- Fetch an element and run it. An error raised while its code is read is taken like any other (R227). -/
def runElement (s : State) : Host.Outcome State Fault Refusal :=
  match fetch s with
  | .ok i s' => exec i s'
  | .error (.raised e) s' => .next (enterError e s')
  | .error (.fault f) _ => .fault f
  | .error (.refused r) _ => .refused r

/-- R161: the length sequence of the dynamic block is complete, and its tables come next (R166). -/
def sequenceDone (s : State) : Bool :=
  decide (s.blk = .dynamicBlock) && decide (s.loopAt = .lengths) && decide (seqTotal s ≤ s.seq.lsI.toNat)

/-- One step of the engine. It reads nothing until START (R251); while BUSY it runs the next element, or builds the tables of a
dynamic block whose length sequence is complete (R158, R166). -/
def engineStep (s : State) : Host.Outcome State Fault Refusal :=
  if s.status.busy then
    if sequenceDone s then finish buildBlockTables s else runElement s
  else .next s

end Sys2Proof.Machine
end

