-- ==== Sys2Proof/Machine/HostPort.lean ====
section
/-! DEFINITION. What the host can do to the engine (spec/48_host_interface.md, R21, R26, R27, R60, R254, R257). -/

namespace Sys2Proof.Machine

/-- R21: the offset of a register from REG_BASE. -/
def HostReg.offset : HostReg → Nat
  | .ctrl => 0x00
  | .status => 0x04
  | .inLen => 0x08
  | .outCap => 0x0C
  | .byteOff => 0x10
  | .bitOff => 0x14
  | .outPos => 0x18
  | .inBase => 0x1C
  | .outBase => 0x20

/-- R21: the register at a host address, keyed back to its name. -/
def regAt (c : Config) (a : Nat) : Option HostReg :=
  [HostReg.ctrl, .status, .inLen, .outCap, .byteOff, .bitOff, .outPos, .inBase, .outBase].find? fun r => c.regBase + r.offset == a

/-- R21: the value of a register as the host reads it: CTRL reads 0 (R26), unused high bits read 0. -/
def regValue (s : State) : HostReg → Data
  | .ctrl => 0
  | .status => statusWord s.status
  | .inLen => BitVec.ofNat 32 s.regs.inLen
  | .outCap => BitVec.ofNat 32 s.regs.outCap
  | .byteOff => BitVec.ofNat 32 s.cur.byteOff
  | .bitOff => s.cur.bitOff.setWidth 32
  | .outPos => BitVec.ofNat 32 s.outPos
  | .inBase => BitVec.ofNat 32 s.regs.inBase
  | .outBase => BitVec.ofNat 32 s.regs.outBase

/-- The low bits of the written data that the register keeps: unused high bits ignore writes (R21). -/
def keepBits (w : Nat) (v : Data) : Nat := v.toNat % 2 ^ w

/-- R21, R27: a write to a register other than CTRL; STATUS is read-only and a write to it is ignored. -/
def writeReg (r : HostReg) (v : Data) (s : State) : State :=
  match r with
  | .ctrl => s
  | .status => s
  | .inLen => { s with regs := { s.regs with inLen := keepBits s.cfg.addrW v } }
  | .outCap => { s with regs := { s.regs with outCap := keepBits s.cfg.addrW v } }
  | .byteOff => { s with cur := { s.cur with byteOff := keepBits s.cfg.addrW v } }
  | .bitOff => { s with cur := { s.cur with bitOff := v.setWidth 3 } }
  | .outPos => { s with outPos := keepBits s.cfg.addrW v }
  | .inBase => { s with regs := { s.regs with inBase := keepBits s.cfg.baseW v } }
  | .outBase => { s with regs := { s.regs with outBase := keepBits s.cfg.baseW v } }

/-- R26: a write to CTRL. Bit 0 = 1 is the command DECODE; 0 has no effect, and while BUSY no register may be written (R254). -/
def writeCtrl (v : Data) (s : State) : Host.Outcome State Fault Refusal :=
  match decode .hostCommand (v.toNat % 2) with
  | .ok i => exec i s
  | .error _ => if s.status.busy then .refused .hostAccessWhileBusy else .next s

/-- One access of the host. While BUSY only a read of STATUS is allowed (R60, R254, R257), and START has its own refusal (R201). -/
def hostAccess (a : HostAccess) (s : State) : Host.Outcome State Fault Refusal :=
  match a with
  | .write .ctrl v => writeCtrl v s
  | .read .status => .next { s with hostRd := some (statusWord s.status) }
  | .write r v => if s.status.busy then .refused .hostAccessWhileBusy else .next (writeReg r v s)
  | .read r => if s.status.busy then .refused .hostAccessWhileBusy else .next { s with hostRd := some (regValue s r) }
  | .writeIn o v => if s.status.busy then .refused .hostAccessWhileBusy else .next { s with inBuf := s.inBuf.write o v }
  | .readIn o =>
    if s.status.busy then .refused .hostAccessWhileBusy
    else .next { s with hostRd := some ((s.inBuf.read o).setWidth 32) }
  | .writeOut o v => if s.status.busy then .refused .hostAccessWhileBusy else .next { s with outBuf := s.outBuf.write o v }
  | .readOut o =>
    if s.status.busy then .refused .hostAccessWhileBusy
    else .next { s with hostRd := some ((s.outBuf.read o).setWidth 32) }

/-- R44, R250: a reset, at any time. The registers take their reset values and the buffers keep their contents. -/
def resetEngine (s : State) : State :=
  { State.resetWith s.cfg with inBuf := s.inBuf, outBuf := s.outBuf, hostQ := s.hostQ }

/-- One step of the whole: what the host does next decides who moves (assumption 5). With nothing pending, or at a slot, the engine
takes a step; a poll reads STATUS and is over once DONE = 1 (R252 (5)). -/
def platformStep (s : State) : Host.Outcome State Fault Refusal :=
  match s.hostQ with
  | [] => engineStep s
  | .access a :: q => hostAccess a { s with hostQ := q }
  | .slot :: q => engineStep { s with hostQ := q }
  | .pollDone :: q =>
    if s.status.done then .next { s with hostQ := q, hostRd := some (statusWord s.status) } else engineStep s
  | .reset :: q => .next (resetEngine { s with hostQ := q })

end Sys2Proof.Machine
end

