-- ==== Sys2Proof/Machine/Load.lean ====
section
/-! DEFINITION. Placing one instruction where the machine reads its next one (assumption 7): the bits at the cursor, and the session
state in which the engine reads an element of that format. -/

namespace Sys2Proof.Machine

/-- IN with the bit number `k` (bit k % 8 of byte k / 8) set to `b`. -/
def placeBit (m : Memory) (k : Nat) (b : Bool) : Memory :=
  let old := (m.read (k / 8)).toNat
  let low := old % 2 ^ (k % 8)
  let high := old / 2 ^ (k % 8 + 1) * 2 ^ (k % 8 + 1)
  m.write (k / 8) (BitVec.ofNat 8 (high + b.toNat * 2 ^ (k % 8) + low))

/-- IN with the bits `bs` from bit number `k` on. -/
def placeBits : Memory → Nat → List Bool → Memory
  | m, _, [] => m
  | m, k, b :: bs => placeBits (placeBit m k b) (k + 1) bs

/-- How many bits are placed: those of the element, then zeros. No header and no element with its extra bits is longer. -/
def loadSpan : Nat := 128

/-- A running engine with the bits `bs`, then zeros, at the cursor, and the host with nothing pending. -/
def loadBits (bs : List Bool) (s : State) : State :=
  { s with
    inBuf := placeBits s.inBuf (8 * s.cur.byteOff + s.cur.bitOff.toNat) (bs ++ List.replicate (loadSpan - bs.length) false)
    regs := { s.regs with inLen := max s.regs.inLen (s.cur.byteOff + loadSpan / 8 + 1) }
    status := { s.status with busy := true, done := false, errKind := 0 }
    hostQ := [] }

/-- Code lengths of the code-length alphabet under which every code-length symbol has a code: the first 13 symbols 4 bits, the other
six 5 bits, a complete code. -/
def loadClLens : List Nat := List.replicate 13 4 ++ List.replicate 6 5

/-- The code-length tables of those lengths. -/
def loadClHuff (s : State) : Huff 19 3 7 :=
  (buildTable 7 { s.cl with lens := tabOfList 19 (loadClLens.map (BitVec.ofNat 3)) 0 } s.scratch).huff

/-- The stream bits of a code-length symbol under those lengths. -/
def loadClBits (v : Nat) : List Bool := bitsMsb (loadClLens.getD v 0) ((assignAll 7 loadClLens).1.getD v 0)

/-- The state in which the very next step reads and runs the instruction `i`. -/
def loadInstr (i : Instr) (s : State) : State :=
  let bs := (fixedStreamBits i).getD []
  match (encode i).format with
  | .blockHeader => { loadBits bs s with blk := .readBlockHeader }
  | .litlenSymbol => { loadBits bs s with blk := .fixedBlock, loopAt := .symbols }
  | .distSymbol =>
    { loadBits bs s with blk := .fixedBlock, loopAt := .distance, syms := { s.syms with mlen := 3 } }
  | .clSymbol =>
    { loadBits (loadClBits (encode i).value) s with
      blk := .dynamicBlock
      loopAt := .lengths
      cl := loadClHuff s
      hdr := { s.hdr with hlit := 257, hdist := 1, hclen := 19 }
      seq := { lenSeq := Vector.replicate 320 0, lsI := 0 } }
  | .hostCommand => { s with hostQ := [.access (.write .ctrl 1)] }

end Sys2Proof.Machine
end

