-- ==== Sys2Proof/Machine/Step.lean ====
section
/-! DEFINITION. One step of the machine. -/

namespace Sys2Proof.Machine

/-- One step: an access of the host, or one element of the stream (R150, R208). -/
def step (s : State) : Host.Outcome State Fault Refusal := platformStep s

/-- The state in which the very next step runs the instruction of a word of spec/opcode_table.json (assumptions 7 and 8); the state as
it is where the word is no instruction. -/
def State.withFetchWord (s : State) (nbits w : Nat) : State :=
  match decodeTableWord nbits w with
  | some i => loadInstr i s
  | none => s

end Sys2Proof.Machine
end

