-- ==== Sys2Proof/Machine/Platform.lean ====
section
/-! DEFINITION. Several engine instances side by side (spec R12, R235). The host's interface runs one engine (Machine/Core.lean); this is
the same step with N_ENGINES of them. -/

namespace Sys2Proof.Machine

/-- R12: the instances; engine `k` is entry `k`. -/
structure Platform where
  engines : List State
  deriving DecidableEq, Repr

/-- R12: N_ENGINES instances, at least one. -/
def Platform.sized (p : Platform) : Bool :=
  decide (0 < p.engines.length) && p.engines.all fun s => decide (s.cfg.nEngines = p.engines.length)

/-- R235: the OUT of one engine overlaps the OUT or the IN of another. -/
def enginesClash (s t : State) : Bool :=
  overlap s.regs.outBase s.regs.outCap t.regs.outBase t.regs.outCap ||
    overlap s.regs.outBase s.regs.outCap t.regs.inBase t.regs.inLen ||
    overlap s.regs.inBase s.regs.inLen t.regs.outBase t.regs.outCap

/-- Another engine than `k` clashes with the state `s`. -/
def clashesWithOthers (p : Platform) (k : Nat) (s : State) : Bool :=
  p.engines.zipIdx.any fun e => e.2 != k && enginesClash s e.1

/-- Engine `k` takes a step. A launch that breaks R235 is refused; nothing else ties the instances together (R12). -/
def Platform.stepOf (p : Platform) (k : Nat) : Host.Outcome Platform Fault Refusal :=
  match p.engines[k]? with
  | none => .refused .noSuchEngine
  | some s =>
    match step s with
    | .next s' =>
      if !s.status.busy && s'.status.busy && clashesWithOthers p k s' then .refused .enginesOverlap
      else .next { engines := p.engines.set k s' }
    | .fault f => .fault f
    | .refused r => .refused r

end Sys2Proof.Machine
end

