-- ==== Sys2Proof/Machine/Run.lean ====
section
/-! DEFINITION. A whole DECODE as one function, from the state at START to the state at DONE = 1 (spec R150, R200, R208). -/

namespace Sys2Proof.Machine

/-- R169: a number of engine steps within which every DECODE ends: at most two for each bit of IN, and two more. -/
def stepBound (s : State) : Nat := 16 * s.regs.inLen + 2

/-- R150 Run: engine steps while BUSY, at most `n`. -/
def runEngine : Nat → State → Host.Outcome State Fault Refusal
  | 0, s => .next s
  | n + 1, s =>
    if s.status.busy then
      match engineStep s with
      | .next s' => runEngine n s'
      | .fault f => .fault f
      | .refused r => .refused r
    else .next s

/-- R200, R208: the host's view of DECODE. -/
def runDecode (s : State) : Host.Outcome State Fault Refusal :=
  match exec .decode s with
  | .next s' => runEngine (stepBound s') s'
  | .fault f => .fault f
  | .refused r => .refused r

end Sys2Proof.Machine
end

