-- ==== Sys2Proof/Safety.lean ====
section
/-! DEFINITION. The terms the claims are stated in: positions and fields of the stream, what the host can see, and the invariants of the
machine. -/

namespace Sys2Proof.Machine

/-! ## The stream -/

/-- R107: the cursor as a bit index. -/
def bitPos (c : Cursor) : Nat := 8 * c.byteOff + c.bitOff.toNat

/-- The cursor `n` bits further on. -/
def advance (c : Cursor) (n : Nat) : Cursor :=
  { byteOff := (bitPos c + n) / 8, bitOff := BitVec.ofNat 3 ((bitPos c + n) % 8) }

/-- R53: bit number `k` of IN: bit k % 8 of byte k / 8. -/
def streamBit (s : State) (k : Nat) : Bool := (s.inBuf.read (k / 8)).getLsbD (k % 8)

/-- R54, R101: the `n`-bit field that begins at bit number `k` of IN, first bit lowest. -/
def fieldLsb (s : State) (k : Nat) : Nat → Nat
  | 0 => 0
  | n + 1 => (streamBit s k).toNat + 2 * fieldLsb s (k + 1) n

/-- `n` bits can be read: a field of no bits always (R106), any other only inside IN. IN_LEN is a launch width (R202 (b)). -/
def readable (s : State) (n : Nat) : Prop :=
  s.regs.inLen < 2 ^ s.cfg.addrW ∧ (n = 0 ∨ bitPos s.cur + n ≤ 8 * s.regs.inLen)

/-- R225: where the cursor stands after a read that found IN exhausted. -/
def endCursor (s : State) : Cursor :=
  if s.cur.byteOff < s.regs.inLen then { byteOff := s.regs.inLen, bitOff := 0#3 } else s.cur

/-- The bits of IN from bit number `k` on begin with the list. -/
def bitsAt (s : State) (k : Nat) : List Bool → Prop
  | [] => True
  | b :: bs => streamBit s k = b ∧ bitsAt s (k + 1) bs

/-- R190: the state after one byte went to the sink, where OUT_POS does not overflow. -/
def afterSink (v : Byte) (s : State) : State :=
  if s.outPos < s.regs.outCap then { s with outBuf := s.outBuf.write s.outPos v, outPos := s.outPos + 1 }
  else { s with status := { s.status with truncated := true }, outPos := s.outPos + 1 }

/-! ## Decode tables -/

/-- R140: the slot reached from a slot by some bits; none where they go past a leaf or an EMPTY slot. The root is node 0. -/
def slotAfter (t : List Slot) : Slot → List Bool → Option Slot
  | sl, [] => some sl
  | .node k, b :: bs => slotAfter t (t.getD (2 * k + b.toNat) .empty) bs
  | .empty, _ :: _ => none
  | .leaf _, _ :: _ => none

/-- R90: the table a format's symbols are decoded with; none for a format that has no codes. -/
def tableOf (s : State) : Format → Option (List Slot)
  | .litlenSymbol => some (litlenTable s)
  | .distSymbol => some (distTable s)
  | .clSymbol => some s.cl.trie.toList
  | .blockHeader => none
  | .hostCommand => none

/-! ## The rows of R110 and R111, as the spec's tables have them -/

/-- R110: the length instructions in symbol order from 257, each with its extra bits and its base. -/
def lengthRows : List (Instr × Nat × Nat) :=
  [(.len257, 0, 3), (.len258, 0, 4), (.len259, 0, 5), (.len260, 0, 6), (.len261, 0, 7), (.len262, 0, 8)] ++
  [(.len263, 0, 9), (.len264, 0, 10), (.len265, 1, 11), (.len266, 1, 13), (.len267, 1, 15), (.len268, 1, 17)] ++
  [(.len269, 2, 19), (.len270, 2, 23), (.len271, 2, 27), (.len272, 2, 31), (.len273, 3, 35), (.len274, 3, 43)] ++
  [(.len275, 3, 51), (.len276, 3, 59), (.len277, 4, 67), (.len278, 4, 83), (.len279, 4, 99), (.len280, 4, 115)] ++
  [(.len281, 5, 131), (.len282, 5, 163), (.len283, 5, 195), (.len284, 5, 227), (.len285, 0, 258)]

/-- R111: the distance instructions in symbol order from 0, each with its extra bits and its base. -/
def distanceRows : List (Instr × Nat × Nat) :=
  [(.dist0, 0, 1), (.dist1, 0, 2), (.dist2, 0, 3), (.dist3, 0, 4), (.dist4, 1, 5), (.dist5, 1, 7)] ++
  [(.dist6, 2, 9), (.dist7, 2, 13), (.dist8, 3, 17), (.dist9, 3, 25), (.dist10, 4, 33), (.dist11, 4, 49)] ++
  [(.dist12, 5, 65), (.dist13, 5, 97), (.dist14, 6, 129), (.dist15, 6, 193), (.dist16, 7, 257), (.dist17, 7, 385)] ++
  [(.dist18, 8, 513), (.dist19, 8, 769), (.dist20, 9, 1025), (.dist21, 9, 1537), (.dist22, 10, 2049), (.dist23, 10, 3073)] ++
  [(.dist24, 11, 4097), (.dist25, 11, 6145), (.dist26, 12, 8193), (.dist27, 12, 12289), (.dist28, 13, 16385), (.dist29, 13, 24577)]

/-- R103: the byte offset AlignToByte leaves. -/
def alignedOff (c : Cursor) : Nat := if c.bitOff = 0#3 then c.byteOff else c.byteOff + 1

/-- R55: the 16-bit value of the two bytes of IN from the offset `a`, little-endian. -/
def le16 (s : State) (a : Nat) : Nat := (s.inBuf.read a).toNat + 256 * (s.inBuf.read (a + 1)).toNat

/-- R10: the host address `a` is one of the `len` addresses of a buffer from `base` on. -/
def inside (base len a : Nat) : Prop := base ≤ a ∧ a < base + len

/-- R191: a byte sent to the sink while OUT_POS goes from the one value to the other is dropped. -/
def dropsBetween (s : State) (p q : Nat) : Bool := decide (p < q) && decide (s.regs.outCap < q)

/-- R21: the width of a register the host can write and read back. -/
def regWidth (s : State) : HostReg → Nat
  | .ctrl => 0
  | .status => 0
  | .inLen => s.cfg.addrW
  | .outCap => s.cfg.addrW
  | .byteOff => s.cfg.addrW
  | .bitOff => 3
  | .outPos => s.cfg.addrW
  | .inBase => s.cfg.baseW
  | .outBase => s.cfg.baseW

/-! ## Outcomes -/

/-- The next state, if there is one. -/
def nextOf {σ φ ρ : Type} : Host.Outcome σ φ ρ → Option σ
  | .next s => some s
  | .fault _ => none
  | .refused _ => none

/-- The outcome with a function applied to its next state. -/
def mapNext {α β φ ρ : Type} (f : α → β) : Host.Outcome α φ ρ → Host.Outcome β φ ρ
  | .next s => .next (f s)
  | .fault r => .fault r
  | .refused r => .refused r

/-- R206: what the host can see of a DECODE that has ended: STATUS, the cursor, OUT_POS and OUT. -/
structure Visible where
  status : Status
  cur : Cursor
  outPos : Nat
  outBuf : Memory
  deriving DecidableEq, Repr

/-- R206. -/
def visible (s : State) : Visible := { status := s.status, cur := s.cur, outPos := s.outPos, outBuf := s.outBuf }

/-- R12, R45: two states that a host has set up alike: they can differ in the session registers (spec/10_state.md section 3), in
STATUS and in what the host does next. -/
def sameSetup (s t : State) : Prop :=
  s.cfg = t.cfg ∧ s.regs = t.regs ∧ s.cur = t.cur ∧ s.outPos = t.outPos ∧ s.inBuf = t.inBuf ∧ s.outBuf = t.outBuf

/-! ## Invariants -/

/-- The buffers are in canonical form. -/
def memoryOk (s : State) : Bool := s.inBuf.wf && s.outBuf.wf

/-- R27, R29, R150: STATUS agrees with STATE, and a fixed block has no code-length elements. STORED_BLOCK lasts no longer than its
element. -/
def sessionOk (s : State) : Bool :=
  (match s.blk with
   | .idle => !s.status.busy && !s.status.done && decide (s.status.errKind = 0)
   | .readBlockHeader | .dynamicBlock => s.status.busy && !s.status.done && decide (s.status.errKind = 0)
   | .fixedBlock => s.status.busy && !s.status.done && decide (s.status.errKind = 0) && decide (s.loopAt ≠ .lengths)
   | .storedBlock => false
   | .done => !s.status.busy && s.status.done && decide (s.status.errKind = 0)
   | .error => !s.status.busy && s.status.done && (errOfCode s.status.errKind).isSome)

/-- R33, R35, R163: in a dynamic block's length sequence, the counts are in range and LS_I is at most TOTAL. -/
def sequenceOk (s : State) : Bool :=
  !(decide (s.blk = .dynamicBlock) && decide (s.loopAt = .lengths)) ||
    (decide (257 ≤ s.hdr.hlit.toNat) && decide (s.hdr.hlit.toNat ≤ 288) && decide (1 ≤ s.hdr.hdist.toNat) &&
      decide (s.hdr.hdist.toNat ≤ 32) && decide (s.seq.lsI.toNat ≤ seqTotal s))

/-- R41: before a distance symbol, MLEN is the length of a COPY. -/
def copyOk (s : State) : Bool :=
  !((decide (s.blk = .fixedBlock) || decide (s.blk = .dynamicBlock)) && decide (s.loopAt = .distance)) ||
    (decide (3 ≤ s.syms.mlen.toNat) && decide (s.syms.mlen.toNat ≤ 258))

/-- R130, R136 (a): a slot of a table of `n` symbols with `nodes` allocated nodes. -/
def slotOk (n nodes : Nat) : Slot → Bool
  | .empty => true
  | .leaf s => decide (s < n)
  | .node k => decide (1 ≤ k) && decide (k ≤ nodes)

/-- R130, R136 (a): a decode table. -/
def trieOk (n nodes : Nat) (t : List Slot) : Bool := decide (nodes ≤ n - 2) && t.all (slotOk n nodes)

/-- The three tables. -/
def tablesOk (s : State) : Bool :=
  trieOk 19 s.cl.nodes.toNat s.cl.trie.toList && trieOk 288 s.ll.nodes.toNat s.ll.trie.toList &&
    trieOk 32 s.dist.nodes.toNat s.dist.trie.toList

/-- R9, R21: every register of ADDR_W bits is below 2^ADDR_W, and the bases fit their width. -/
def widthsOk (s : State) : Bool :=
  launchWidthOk s && decide (s.regs.inBase < 2 ^ s.cfg.baseW) && decide (s.regs.outBase < 2 ^ s.cfg.baseW)

/-- Everything that holds from reset on. -/
def MachineInv (s : State) : Prop :=
  memoryOk s = true ∧ sessionOk s = true ∧ sequenceOk s = true ∧ copyOk s = true ∧ tablesOk s = true ∧ widthsOk s = true

end Sys2Proof.Machine
end

