-- ==== Sys2Proof/Certificates/Slice0/Obligations.lean ====
section
/-! DEFINITION. The statements for the provers. Each is listed in OBLIGATIONS.json with the rule of spec/ it comes from. -/

open Sys2Proof Sys2Proof.Machine

/-! ## Encoding -/

/-- R72, R82, R83, R84, R26: a value decodes to an instruction exactly when it is that instruction's encoding. -/
def Obligations.DecodeInvertsEncode : Prop :=
  ∀ (f : Format) (v : Nat) (i : Instr), decode f v = .ok i ↔ i.WellFormed ∧ encode i = ⟨f, v⟩

/-- R72, R82, R83, R84, R26: the values that are no instruction are those too wide for the format, the literal/length values from 288,
the code-length values from 19, and the host's write of 0. -/
def Obligations.RejectedValues : Prop :=
  ∀ (f : Format) (v : Nat), (∃ r, decode f v = .error r) ↔
    2 ^ f.width ≤ v ∨ (f = .litlenSymbol ∧ 288 ≤ v) ∨ (f = .clSymbol ∧ 19 ≤ v) ∨ (f = .hostCommand ∧ v = 0)

/-- R72, R82, R83, R84, R200: words written out from the spec's tables, one family after the other. -/
def Obligations.SpecWordsDecode : Prop :=
  decode .blockHeader 0b000 = .ok (.stored false) ∧ decode .blockHeader 0b011 = .ok (.fixed true) ∧
    decode .blockHeader 0b100 = .ok (.dynamic false) ∧ decode .blockHeader 0b111 = .ok (.reserved true) ∧
    decode .litlenSymbol 0b001000001 = .ok (.lit 0x41) ∧ decode .litlenSymbol 0b100000000 = .ok .eob ∧
    decode .litlenSymbol 0b100000001 = .ok .len257 ∧ decode .litlenSymbol 0b100011101 = .ok .len285 ∧
    decode .litlenSymbol 0b100011110 = .ok .invalid286 ∧ decode .distSymbol 0b00000 = .ok .dist0 ∧
    decode .distSymbol 0b11101 = .ok .dist29 ∧ decode .distSymbol 0b11110 = .ok .invalidD30 ∧
    decode .clSymbol 0b01111 = .ok (.clLit 15) ∧ decode .clSymbol 0b10000 = .ok .repPrev ∧
    decode .clSymbol 0b10010 = .ok .repZeroLong ∧ decode .hostCommand 0b1 = .ok .decode

/-- R85: in a fixed block, the stream bits of the code of any of the 288 literal/length symbols are read as that symbol, and no bit
more is consumed. -/
def Obligations.FixedLitlenCodesAreRead : Prop :=
  ∀ (s : State) (v : Nat) (i : Instr), s.blk = .fixedBlock → s.loopAt = .symbols → decode .litlenSymbol v = .ok i →
    readable s (fixedLitlenCode v).1 →
    bitsAt s (bitPos s.cur) (bitsMsb (fixedLitlenCode v).1 (fixedLitlenCode v).2) →
    ∃ p, fetch s = .ok i { s with cur := advance s.cur (fixedLitlenCode v).1, syms := { s.syms with tpos := p } }

/-- R86: in a fixed block, the 5-bit code of any of the 32 distance symbols is read as that symbol. -/
def Obligations.FixedDistCodesAreRead : Prop :=
  ∀ (s : State) (v : Nat) (i : Instr), s.blk = .fixedBlock → s.loopAt = .distance → decode .distSymbol v = .ok i →
    readable s 5 → bitsAt s (bitPos s.cur) (bitsMsb 5 v) →
    ∃ p, fetch s = .ok i { s with cur := advance s.cur 5, syms := { s.syms with tpos := p } }

/-- R91, R150, R151, R140, R200: with the host out of the way, a step of a running engine is exec of the instruction whose bits stand at
the cursor, after the cursor has passed them. A header's step writes BFINAL_L on the way (R151), a symbol's step leaves the walk position
TPOS somewhere (R42). A step in which the host writes START is exec of DECODE. How elements cut a run into steps is the model's (log
entries 4 and 5). -/
def Obligations.StepRunsDecodedInstruction : Prop :=
  (∀ (s : State) (i : Instr), s.hostQ = [] → s.status.busy = true → nextFormat s = some .blockHeader → readable s 3 →
    decode .blockHeader (fieldLsb s (bitPos s.cur) 3) = .ok i →
    step s = exec i { s with
      cur := advance s.cur 3
      hdr := { s.hdr with bfinal := BitVec.ofNat 1 (streamBit s (bitPos s.cur)).toNat } }) ∧
  (∀ (s : State) (f : Format) (t : List Slot) (bs : List Bool) (v : Nat) (i : Instr),
    s.hostQ = [] → s.status.busy = true → sequenceDone s = false → nextFormat s = some f → tableOf s f = some t →
    slotAfter t (.node 0) bs = some (.leaf v) → decode f v = .ok i → readable s bs.length → bitsAt s (bitPos s.cur) bs →
    ∃ p, step s = exec i { s with cur := advance s.cur bs.length, syms := { s.syms with tpos := p } }) ∧
  (∀ (s : State) (v : Data) (q : List HostOp), s.hostQ = .access (.write .ctrl v) :: q → v.getLsbD 0 = true →
    step s = exec .decode { s with hostQ := q })

/-! ## The bit cursor -/

/-- R101, R106: ReadLSB(n) gives the n bits at the cursor, the first one lowest, and moves n bits on; where IN ends before them it
raises EndOfInput with the bits before the end consumed; with n = 0 it reads nothing and checks nothing. -/
def Obligations.ReadLsbFirstBitLowest : Prop :=
  ∀ (s : State) (n : Nat),
    (readable s n → ∃ v, readLsb n s = .ok v { s with cur := advance s.cur n } ∧ v < 2 ^ n ∧
      ∀ k, k < n → v.testBit k = streamBit s (bitPos s.cur + k)) ∧
    (s.regs.inLen < 2 ^ s.cfg.addrW → n ≠ 0 → 8 * s.regs.inLen < bitPos s.cur + n →
      readLsb n s = .error (.raised .endOfInput) { s with cur := endCursor s }) ∧
    readLsb 0 s = .ok 0 s

/-- R102: ReadMSB(n) gives the n bits at the cursor, the first one highest, and ends like ReadLSB where IN ends. -/
def Obligations.ReadMsbFirstBitHighest : Prop :=
  ∀ (s : State) (n : Nat), n ≠ 0 →
    (readable s n → ∃ v, readMsb n s = .ok v { s with cur := advance s.cur n } ∧ v < 2 ^ n ∧
      ∀ k, k < n → v.testBit (n - 1 - k) = streamBit s (bitPos s.cur + k)) ∧
    (s.regs.inLen < 2 ^ s.cfg.addrW → 8 * s.regs.inLen < bitPos s.cur + n →
      readMsb n s = .error (.raised .endOfInput) { s with cur := endCursor s })

/-- R140, R141, R142: DecodeSymbol follows the bits at the cursor through the table: at a leaf it answers the symbol, at an EMPTY slot
it raises InvalidBlockData, and where IN ends on an internal node it raises EndOfInput. In each case just those bits are consumed. -/
def Obligations.DecodeSymbolFollowsTheTable : Prop :=
  ∀ (t : List Slot) (s : State) (bs : List Bool), readable s bs.length → bitsAt s (bitPos s.cur) bs →
    (∀ v, slotAfter t (.node 0) bs = some (.leaf v) →
      ∃ p, decodeSymbol t s = .ok v { s with cur := advance s.cur bs.length, syms := { s.syms with tpos := p } }) ∧
    (slotAfter t (.node 0) bs = some .empty →
      ∃ p, decodeSymbol t s =
        .error (.raised .invalidBlockData) { s with cur := advance s.cur bs.length, syms := { s.syms with tpos := p } }) ∧
    (∀ k, slotAfter t (.node 0) bs = some (.node k) → 8 * s.regs.inLen ≤ bitPos s.cur + bs.length →
      ∃ p, decodeSymbol t s =
        .error (.raised .endOfInput) { s with cur := advance s.cur bs.length, syms := { s.syms with tpos := p } })

/-! ## Huffman codes and tables -/

/-- R121: BuildCodes refuses a set of lengths exactly when the sum of 2^(MAXLEN - length) over the used symbols passes 2^MAXLEN. -/
def Obligations.KraftCheck : Prop :=
  ∀ (maxLen : Nat) (lens : List Nat), buildCodes maxLen lens = none ↔
    2 ^ maxLen < ((lens.filter fun l => decide (0 < l)).map fun l => 2 ^ (maxLen - l)).sum

/-- R121, R135: the table of an oversubscribed set is not built, and nothing of its alphabet is written. That codes, scratch and table all
stay is the model's reading (DEDUCED, log entry 13). -/
def Obligations.OversubscribedSetBuildsNothing : Prop :=
  ∀ (n lenW codeW maxLen : Nat) (h : Huff n lenW codeW) (sc : Scratch), buildCodes maxLen (lensOf h) = none →
    buildTable maxLen h sc = { huff := h, scratch := sc, ok := false }

/-- R123, R124: the code of a symbol is the first code of its length plus the number of earlier symbols of that length, and is below
2^length; the first code of a length plus the number of its symbols is at most 2^length. -/
def Obligations.CodesAreFirstCodePlusRank : Prop :=
  ∀ (maxLen : Nat) (lens codes : List Nat), buildCodes maxLen lens = some codes → (∀ l ∈ lens, l ≤ maxLen) →
    codes.length = lens.length ∧
    (∀ s l, lens[s]? = some l → 0 < l →
      codes[s]? = some (firstCode lens l + (lens.take s).count l) ∧ firstCode lens l + (lens.take s).count l < 2 ^ l) ∧
    (∀ l, 0 < l → l ≤ maxLen → firstCode lens l + lens.count l ≤ 2 ^ l) ∧
    firstCode lens 1 = 0 ∧ ∀ l, 0 < l → firstCode lens (l + 1) = 2 * (firstCode lens l + lens.count l)

/-- R125 (a): no code is the beginning of the code of another symbol. -/
def Obligations.CodesArePrefixFree : Prop :=
  ∀ (maxLen : Nat) (lens codes : List Nat) (s s' l l' c c' : Nat), buildCodes maxLen lens = some codes →
    (∀ k ∈ lens, k ≤ maxLen) → s ≠ s' → lens[s]? = some l → lens[s']? = some l' → 0 < l → 0 < l' →
    codes[s]? = some c → codes[s']? = some c' → ¬ bitsMsb l c <+: bitsMsb l' c'

/-- R136 (c) and (d): a compiled table leads the bits of each symbol's code, and no other bits, to that symbol's leaf. -/
def Obligations.TableHoldsExactlyTheCodes : Prop :=
  ∀ (n : Nat) (lens codes : List Nat) (t : Trie), 2 ≤ n → lens.length = n → codes.length = n →
    compileTable n lens codes = .ok t →
    ∀ (bs : List Bool) (v : Nat), slotAfter t.slots (.node 0) bs = some (.leaf v) ↔
      ∃ l c, lens[v]? = some l ∧ codes[v]? = some c ∧ 0 < l ∧ bs = bitsMsb l c

/-- R143: DecodeSymbol inverts the builder: on the bits of a symbol's code it answers that symbol and consumes its length. -/
def Obligations.DecodeSymbolInvertsTheBuilder : Prop :=
  ∀ (n maxLen : Nat) (lens codes : List Nat) (t : Trie) (s : State) (v l c : Nat), 2 ≤ n → lens.length = n →
    buildCodes maxLen lens = some codes → compileTable n lens codes = .ok t → lens[v]? = some l → 0 < l → codes[v]? = some c →
    readable s l → bitsAt s (bitPos s.cur) (bitsMsb l c) →
    ∃ p, decodeSymbol t.slots s = .ok v { s with cur := advance s.cur l, syms := { s.syms with tpos := p } }

/-- R133, R134: once the Kraft check has passed no collision can happen: a table fails to compile only when all its nodes are in use
and the code of some symbol, all symbols before it being in the table, leads to an EMPTY slot with bits left. -/
def Obligations.CompileFailsOnlyForWantOfNodes : Prop :=
  ∀ (n maxLen : Nat) (lens codes : List Nat) (t : Trie), 2 ≤ n → lens.length = n → (∀ l ∈ lens, l ≤ maxLen) →
    buildCodes maxLen lens = some codes → compileTable n lens codes = .error t →
    t.nodes = n - 2 ∧
    ∃ v l c m, lens[v]? = some l ∧ codes[v]? = some c ∧ m < l ∧
      slotAfter t.slots (.node 0) ((bitsMsb l c).take m) = some .empty ∧
      ∀ w l' c', w < v → lens[w]? = some l' → codes[w]? = some c' → 0 < l' →
        slotAfter t.slots (.node 0) (bitsMsb l' c') = some (.leaf w)

/-- R117: the fixed tables are what the compiler makes of the fixed lengths, with 287 and 31 internal nodes. -/
def Obligations.FixedTablesAreCompiled : Prop :=
  (∃ codes, buildCodes 15 fixedLlLens = some codes ∧
    compileTable 288 fixedLlLens codes = .ok { slots := fixedLlTrie.toList, nodes := 286 }) ∧
  (∃ codes, buildCodes 15 fixedDLens = some codes ∧
    compileTable 32 fixedDLens codes = .ok { slots := fixedDTrie.toList, nodes := 30 })

/-! ## The block headers -/

/-- R154, R155, R156, R167, R195: a stored block whose bytes are all there copies them to OUT through the sink, leaves the cursor on the
byte after the last, and ends the block. Bytes of OUT outside those stored stay. The copy counter ends at 0 (log entry 17). -/
def Obligations.StoredCopiesItsBytes : Prop :=
  ∀ (s : State) (bfinal : Bool) (a len : Nat), a = alignedOff s.cur → len = le16 s a → s.outBuf.wf = true →
    s.regs.inLen < 2 ^ s.cfg.addrW → a + 4 + len ≤ s.regs.inLen → len + le16 s (a + 2) = 0xFFFF →
    s.outPos + len < 2 ^ s.cfg.addrW →
    ∃ t, exec (.stored bfinal) s = .next t ∧
      t = { s with
        cur := { byteOff := a + 4 + len, bitOff := 0 }
        outPos := s.outPos + len
        outBuf := t.outBuf
        hdr := { s.hdr with
          bfinal := BitVec.ofNat 1 bfinal.toNat
          btype := 0
          lenR := BitVec.ofNat 16 len
          nlenR := BitVec.ofNat 16 (le16 s (a + 2)) }
        syms := { s.syms with copyLeft := 0 }
        blk := if bfinal then .done else .readBlockHeader
        status := { s.status with
          busy := s.status.busy && !bfinal
          done := s.status.done || bfinal
          truncated := s.status.truncated || dropsBetween s s.outPos (s.outPos + len) } } ∧
      (∀ k, k < len → s.outPos + k < s.regs.outCap → t.outBuf.read (s.outPos + k) = s.inBuf.read (a + 4 + k)) ∧
      (∀ o, o < s.outPos ∨ s.outPos + len ≤ o ∨ s.regs.outCap ≤ o → t.outBuf.read o = s.outBuf.read o)

/-- R155, R156, R221, R225: a stored block whose LEN and NLEN do not match raises InvalidBlockLength just after NLEN; one whose data
is cut short has written the bytes before the end; one whose length fields are cut short has written nothing. -/
def Obligations.StoredBlockErrors : Prop :=
  ∀ (s : State) (bfinal : Bool) (a len nlen : Nat), a = alignedOff s.cur → len = le16 s a → nlen = le16 s (a + 2) →
    s.outBuf.wf = true → s.regs.inLen < 2 ^ s.cfg.addrW → a < 2 ^ s.cfg.addrW →
    (a + 4 ≤ s.regs.inLen → len + nlen ≠ 0xFFFF →
      exec (.stored bfinal) s = .next (enterError .invalidBlockLength { s with
        cur := { byteOff := a + 4, bitOff := 0 }
        hdr := { s.hdr with
          bfinal := BitVec.ofNat 1 bfinal.toNat
          btype := 0
          lenR := BitVec.ofNat 16 len
          nlenR := BitVec.ofNat 16 nlen }
        blk := .storedBlock })) ∧
    (a + 4 ≤ s.regs.inLen → len + nlen = 0xFFFF → s.regs.inLen < a + 4 + len →
      s.outPos + (s.regs.inLen - (a + 4)) < 2 ^ s.cfg.addrW →
      ∃ t, exec (.stored bfinal) s = .next t ∧ t.blk = .error ∧ t.status.errKind = errCode .endOfInput ∧
        t.cur = { byteOff := s.regs.inLen, bitOff := 0 } ∧ t.outPos = s.outPos + (s.regs.inLen - (a + 4)) ∧
        (∀ k, a + 4 + k < s.regs.inLen → s.outPos + k < s.regs.outCap →
          t.outBuf.read (s.outPos + k) = s.inBuf.read (a + 4 + k)) ∧
        (∀ o, o < s.outPos ∨ t.outPos ≤ o ∨ s.regs.outCap ≤ o → t.outBuf.read o = s.outBuf.read o)) ∧
    (s.regs.inLen < a + 4 →
      exec (.stored bfinal) s = .next (enterError .endOfInput { s with
        cur := { byteOff := max a s.regs.inLen, bitOff := 0 }
        hdr := { s.hdr with
          bfinal := BitVec.ofNat 1 bfinal.toNat
          btype := 0
          lenR := if a + 2 ≤ s.regs.inLen then BitVec.ofNat 16 len else s.hdr.lenR }
        blk := .storedBlock }))

/-- R157, R113, R114: a fixed block takes the fixed lengths and goes to its symbol loop; the block's own tables, the codes and the
buffers stay (D26: the fixed tables are constants). That the block's own tables stay is the model's choice among those R40 allows
(log entry 9). -/
def Obligations.FixedTakesTheFixedLengths : Prop :=
  ∀ (s : State) (bfinal : Bool), ∃ t, exec (.fixed bfinal) s = .next t ∧
    t = { s with
      hdr := { s.hdr with bfinal := BitVec.ofNat 1 bfinal.toNat, btype := 1 }
      blk := .fixedBlock
      loopAt := .symbols
      ll := { s.ll with lens := t.ll.lens }
      dist := { s.dist with lens := t.dist.lens } } ∧
    (∀ k, k < 288 → tabGet t.ll.lens k 0 = if k < 144 then 8 else if k < 256 then 9 else if k < 280 then 7 else 8) ∧
    (∀ k, k < 32 → tabGet t.dist.lens k 0 = 5) ∧
    litlenTable t = fixedLlTrie.toList ∧ distTable t = fixedDTrie.toList

/-- R158 to R161: the header of a dynamic block: the three counts, the code-length code lengths in the order of R112, their table, and the
length sequence cleared up to HLIT + HDIST. A table that cannot be built is OversubscribedCode, and a header that IN cuts short is
EndOfInput with OUT untouched. What a table that cannot be built leaves is DEDUCED (log entry 13). -/
def Obligations.DynamicReadsItsHeader : Prop :=
  ∀ (s : State) (bfinal : Bool) (p f1 f2 f3 : Nat), p = bitPos s.cur → f1 = fieldLsb s p 5 → f2 = fieldLsb s (p + 5) 5 →
    f3 = fieldLsb s (p + 10) 4 → s.regs.inLen < 2 ^ s.cfg.addrW →
    (readable s (14 + 3 * (f3 + 4)) →
      ∃ lens : Vector (BitVec 3) 19,
        (∀ j, j < 19 → tabGet lens (clclOrder.getD j 0) 0 = BitVec.ofNat 3 (if j < f3 + 4 then fieldLsb s (p + 14 + 3 * j) 3 else 0)) ∧
        ((buildTable 7 { s.cl with lens := lens } s.scratch).ok = true →
          ∃ t, exec (.dynamic bfinal) s = .next t ∧
            t = { s with
              cur := advance s.cur (14 + 3 * (f3 + 4))
              hdr := { s.hdr with
                bfinal := BitVec.ofNat 1 bfinal.toNat
                btype := 2
                hlit := BitVec.ofNat 9 (f1 + 257)
                hdist := BitVec.ofNat 6 (f2 + 1)
                hclen := BitVec.ofNat 5 (f3 + 4) }
              blk := .dynamicBlock
              loopAt := .lengths
              cl := (buildTable 7 { s.cl with lens := lens } s.scratch).huff
              scratch := (buildTable 7 { s.cl with lens := lens } s.scratch).scratch
              seq := { lenSeq := t.seq.lenSeq, lsI := 0 } } ∧
            ∀ k, k < 320 → tabGet t.seq.lenSeq k 0 = if k < f1 + 257 + (f2 + 1) then 0 else tabGet s.seq.lenSeq k 0) ∧
        ((buildTable 7 { s.cl with lens := lens } s.scratch).ok = false →
          exec (.dynamic bfinal) s = .next (enterError .oversubscribedCode { s with
            cur := advance s.cur (14 + 3 * (f3 + 4))
            hdr := { s.hdr with
              bfinal := BitVec.ofNat 1 bfinal.toNat
              btype := 2
              hlit := BitVec.ofNat 9 (f1 + 257)
              hdist := BitVec.ofNat 6 (f2 + 1)
              hclen := BitVec.ofNat 5 (f3 + 4) }
            blk := .dynamicBlock
            cl := (buildTable 7 { s.cl with lens := lens } s.scratch).huff
            scratch := (buildTable 7 { s.cl with lens := lens } s.scratch).scratch }))) ∧
    (8 * s.regs.inLen < p + 14 + 3 * (f3 + 4) →
      ∃ t, exec (.dynamic bfinal) s = .next (enterError .endOfInput t) ∧
        t = { s with
          cur := endCursor s
          hdr := t.hdr
          blk := .dynamicBlock
          cl := { s.cl with lens := t.cl.lens } })

/-- R153: the reserved block type raises InvalidEncoding, reads nothing more and writes nothing to OUT. -/
def Obligations.ReservedRaisesInvalidEncoding : Prop :=
  ∀ (s : State) (bfinal : Bool), exec (.reserved bfinal) s = .next { s with
    hdr := { s.hdr with bfinal := BitVec.ofNat 1 bfinal.toNat, btype := 3 }
    blk := .error
    status := { s.status with busy := false, done := true, errKind := 3 } }

/-! ## The symbol loop -/

/-- R181, R190: a literal goes to OUT at OUT_POS when that is below OUT_CAP, is dropped with TRUNCATED set when it is not, and counts
either way. No other byte of OUT changes. -/
def Obligations.LiteralIsOneSinkWrite : Prop :=
  ∀ (s : State) (b : BitVec 9), (Instr.lit b).WellFormed → s.outBuf.wf = true → s.outPos + 1 < 2 ^ s.cfg.addrW →
    (s.outPos < s.regs.outCap → ∃ t, exec (.lit b) s = .next t ∧
      t = { s with syms := { s.syms with sym := b }, outPos := s.outPos + 1, outBuf := t.outBuf } ∧
      (t.outBuf.read s.outPos).toNat = b.toNat ∧ ∀ o, o ≠ s.outPos → t.outBuf.read o = s.outBuf.read o) ∧
    (s.regs.outCap ≤ s.outPos → exec (.lit b) s = .next { s with
      syms := { s.syms with sym := b }
      outPos := s.outPos + 1
      status := { s.status with truncated := true } })

/-- R182, R167, R204: the end-of-block symbol ends the DECODE with success after the final block, and returns to the next header
otherwise; the cursor stays where the code ended. -/
def Obligations.EndOfBlockEndsOrReturns : Prop :=
  ∀ s : State,
    (s.hdr.bfinal = 1 → exec .eob s = .next { s with
      syms := { s.syms with sym := 256 }
      blk := .done
      status := { s.status with busy := false, done := true } }) ∧
    (s.hdr.bfinal = 0 → exec .eob s = .next { s with syms := { s.syms with sym := 256 }, blk := .readBlockHeader })

/-- R183, R110: a length symbol reads its extra bits and sets MLEN to its base plus their value, 3 to 258; the distance symbol is next.
That the distance symbol is an element of its own is the model's (log entry 4). -/
def Obligations.LengthSymbolsSetMlen : Prop :=
  ∀ (s : State) (j : Nat) (i : Instr) (extra base x : Nat), lengthRows[j]? = some (i, extra, base) →
    readable s extra → x = fieldLsb s (bitPos s.cur) extra →
    3 ≤ base + x ∧ base + x ≤ 258 ∧
    exec i s = .next { s with
      cur := advance s.cur extra
      syms := { s.syms with sym := BitVec.ofNat 9 (257 + j), mlen := BitVec.ofNat 9 (base + x) }
      loopAt := .distance }

/-- R184: the symbols 286 and 287 raise InvalidBlockData before any extra bit is read. -/
def Obligations.InvalidLitlenSymbolsRaise : Prop :=
  ∀ s : State,
    exec .invalid286 s = .next { s with
      syms := { s.syms with sym := 286 }
      blk := .error
      status := { s.status with busy := false, done := true, errKind := 2 } } ∧
    exec .invalid287 s = .next { s with
      syms := { s.syms with sym := 287 }
      blk := .error
      status := { s.status with busy := false, done := true, errKind := 2 } }

/-- R185, R188, R192, R193: a distance symbol reads its extra bits, sets MDIST to its base plus their value, and, when OUT_POS reaches
that far back, writes MLEN bytes: each byte kept equals the one MDIST before it, also where that byte was written by the same copy. No
other byte of OUT changes. The copy counter ends at 0 (log entry 17). -/
def Obligations.DistanceSymbolsCopy : Prop :=
  ∀ (s : State) (k : Nat) (i : Instr) (extra base d len : Nat), distanceRows[k]? = some (i, extra, base) →
    readable s extra → d = base + fieldLsb s (bitPos s.cur) extra → len = s.syms.mlen.toNat → s.outBuf.wf = true →
    d ≤ s.outPos → s.outPos + len < 2 ^ s.cfg.addrW →
    1 ≤ d ∧ d ≤ 32768 ∧
    ∃ t, exec i s = .next t ∧
      t = { s with
        cur := advance s.cur extra
        outPos := s.outPos + len
        outBuf := t.outBuf
        loopAt := .symbols
        syms := { s.syms with dsym := BitVec.ofNat 5 k, mdist := BitVec.ofNat 16 d, copyLeft := 0 }
        status := { s.status with truncated := s.status.truncated || dropsBetween s s.outPos (s.outPos + len) } } ∧
      (∀ o, s.outPos ≤ o → o < s.outPos + len → o < s.regs.outCap → t.outBuf.read o = t.outBuf.read (o - d)) ∧
      (∀ o, o < s.outPos ∨ s.outPos + len ≤ o ∨ s.regs.outCap ≤ o → t.outBuf.read o = s.outBuf.read o)

/-- R187: a distance beyond OUT_POS raises InvalidBlockData after the extra bits and before any byte. -/
def Obligations.DistanceBeyondOutputRaises : Prop :=
  ∀ (s : State) (k : Nat) (i : Instr) (extra base d : Nat), distanceRows[k]? = some (i, extra, base) → readable s extra →
    d = base + fieldLsb s (bitPos s.cur) extra → s.outPos < d →
    exec i s = .next { s with
      cur := advance s.cur extra
      syms := { s.syms with dsym := BitVec.ofNat 5 k, mdist := BitVec.ofNat 16 d }
      blk := .error
      status := { s.status with busy := false, done := true, errKind := 2 } }

/-- R186: the symbols 30 and 31 raise InvalidBlockData before any extra bit is read. -/
def Obligations.InvalidDistSymbolsRaise : Prop :=
  ∀ s : State,
    exec .invalidD30 s = .next { s with
      syms := { s.syms with dsym := 30 }
      blk := .error
      status := { s.status with busy := false, done := true, errKind := 2 } } ∧
    exec .invalidD31 s = .next { s with
      syms := { s.syms with dsym := 31 }
      blk := .error
      status := { s.status with busy := false, done := true, errKind := 2 } }

/-- R183, R185, R163 to R165, R225: an element whose extra bits IN cuts short raises EndOfInput, with the bits before the end consumed;
of the registers only SYM or DSYM has been written. -/
def Obligations.ExtraBitsCutShort : Prop :=
  ∀ s : State, s.regs.inLen < 2 ^ s.cfg.addrW →
    (∀ (j : Nat) (i : Instr) (extra base : Nat), lengthRows[j]? = some (i, extra, base) → extra ≠ 0 → 8 * s.regs.inLen < bitPos s.cur + extra →
      exec i s = .next (enterError .endOfInput
        { s with cur := endCursor s, syms := { s.syms with sym := BitVec.ofNat 9 (257 + j) } })) ∧
    (∀ (k : Nat) (i : Instr) (extra base : Nat), distanceRows[k]? = some (i, extra, base) → extra ≠ 0 → 8 * s.regs.inLen < bitPos s.cur + extra →
      exec i s = .next (enterError .endOfInput
        { s with cur := endCursor s, syms := { s.syms with dsym := BitVec.ofNat 5 k } })) ∧
    (8 * s.regs.inLen < bitPos s.cur + 2 → exec .repPrev s = .next (enterError .endOfInput { s with cur := endCursor s })) ∧
    (8 * s.regs.inLen < bitPos s.cur + 3 → exec .repZero s = .next (enterError .endOfInput { s with cur := endCursor s })) ∧
    (8 * s.regs.inLen < bitPos s.cur + 7 → exec .repZeroLong s = .next (enterError .endOfInput { s with cur := endCursor s }))

/-! ## The length sequence and the tables of a dynamic block -/

/-- R162: a literal length goes into LENSEQ at LS_I, and LS_I moves on. -/
def Obligations.LiteralLengthIsStored : Prop :=
  ∀ (s : State) (c : BitVec 5), (Instr.clLit c).WellFormed → s.seq.lsI.toNat < 320 →
    ∃ t, exec (.clLit c) s = .next t ∧
      t = { s with seq := { lenSeq := t.seq.lenSeq, lsI := s.seq.lsI + 1 } } ∧
      (tabGet t.seq.lenSeq s.seq.lsI.toNat 0).toNat = c.toNat ∧
      ∀ k, k ≠ s.seq.lsI.toNat → tabGet t.seq.lenSeq k 0 = tabGet s.seq.lenSeq k 0

/-- R163: REP_PREV repeats the length before LS_I 3 to 6 times; with no length before, or with a run past TOTAL, it raises
InvalidBlockData after its two extra bits. -/
def Obligations.RepeatPreviousLength : Prop :=
  ∀ (s : State) (i r : Nat), readable s 2 → i = s.seq.lsI.toNat → r = 3 + fieldLsb s (bitPos s.cur) 2 → seqTotal s ≤ 320 →
    (i ≠ 0 → i + r ≤ seqTotal s → ∃ t, exec .repPrev s = .next t ∧
      t = { s with cur := advance s.cur 2, seq := { lenSeq := t.seq.lenSeq, lsI := BitVec.ofNat 9 (i + r) } } ∧
      (∀ k, i ≤ k → k < i + r → tabGet t.seq.lenSeq k 0 = tabGet s.seq.lenSeq (i - 1) 0) ∧
      (∀ k, k < i ∨ i + r ≤ k → tabGet t.seq.lenSeq k 0 = tabGet s.seq.lenSeq k 0)) ∧
    (i = 0 ∨ seqTotal s < i + r →
      exec .repPrev s = .next (enterError .invalidBlockData { s with cur := advance s.cur 2 }))

/-- R164, R165: REP_ZERO and REP_ZERO_LONG put 3 to 10 and 11 to 138 zeros from LS_I on; a run past TOTAL raises InvalidBlockData after
the extra bits. -/
def Obligations.RepeatZeroLength : Prop :=
  ∀ (s : State) (ins : Instr) (extra low i r : Nat),
    (ins = .repZero ∧ extra = 3 ∧ low = 3) ∨ (ins = .repZeroLong ∧ extra = 7 ∧ low = 11) →
    readable s extra → i = s.seq.lsI.toNat → r = low + fieldLsb s (bitPos s.cur) extra → seqTotal s ≤ 320 →
    (i + r ≤ seqTotal s → ∃ t, exec ins s = .next t ∧
      t = { s with cur := advance s.cur extra, seq := { lenSeq := t.seq.lenSeq, lsI := BitVec.ofNat 9 (i + r) } } ∧
      (∀ k, i ≤ k → k < i + r → tabGet t.seq.lenSeq k 0 = 0) ∧
      (∀ k, k < i ∨ i + r ≤ k → tabGet t.seq.lenSeq k 0 = tabGet s.seq.lenSeq k 0)) ∧
    (seqTotal s < i + r → exec ins s = .next (enterError .invalidBlockData { s with cur := advance s.cur extra }))

/-- R166: once the length sequence is complete, the engine splits it into the lengths of the two alphabets, with 0 past HLIT and HDIST,
and builds the literal/length table and then the distance table; a table that cannot be built is OversubscribedCode. That this is a step
of its own is the model's (log entry 4), and what a failed table leaves is DEDUCED (log entry 13). -/
def Obligations.BlockTablesFromTheSequence : Prop :=
  ∀ s : State, s.status.busy = true → sequenceDone s = true →
    ∃ (ls : Vector (BitVec 4) 288) (ds : Vector (BitVec 4) 32) (r : Built 288 4 15) (q : Built 32 4 15),
      (∀ k, k < 288 → tabGet ls k 0 = if k < s.hdr.hlit.toNat then tabGet s.seq.lenSeq k 0 else 0) ∧
      (∀ k, k < 32 → tabGet ds k 0 = if k < s.hdr.hdist.toNat then tabGet s.seq.lenSeq (s.hdr.hlit.toNat + k) 0 else 0) ∧
      r = buildTable 15 { s.ll with lens := ls } s.scratch ∧ q = buildTable 15 { s.dist with lens := ds } r.scratch ∧
      (r.ok = true → q.ok = true →
        engineStep s = .next { s with ll := r.huff, dist := q.huff, scratch := q.scratch, loopAt := .symbols }) ∧
      (r.ok = true → q.ok = false → engineStep s = .next (enterError .oversubscribedCode
        { s with ll := r.huff, dist := q.huff, scratch := q.scratch })) ∧
      (r.ok = false → engineStep s = .next (enterError .oversubscribedCode
        { s with ll := r.huff, dist := { s.dist with lens := ds }, scratch := r.scratch }))

/-! ## DECODE, errors and overflow -/

/-- R200, R203: DECODE with its premises met does the start actions and nothing else, from IDLE, DONE and ERROR alike. -/
def Obligations.DecodeStartsARun : Prop :=
  ∀ s : State, s.status.busy = false → s.regs.inLen < 2 ^ s.cfg.addrW → s.cur.byteOff < 2 ^ s.cfg.addrW →
    s.regs.outCap < 2 ^ s.cfg.addrW → s.outPos < 2 ^ s.cfg.addrW → buffersOverlap s = false →
    exec .decode s = .next { s with
      blk := .readBlockHeader
      status := { busy := true, done := false, errKind := 0, truncated := false } }

/-- R201, R202: DECODE is refused while BUSY, with a launch width broken, and with IN and OUT sharing an address of the host. What counts
as an overlap is DEDUCED (log entry 12). -/
def Obligations.DecodeRefusals : Prop :=
  ∀ s : State,
    (s.status.busy = true → exec .decode s = .refused .startWhileBusy) ∧
    (s.status.busy = false →
      2 ^ s.cfg.addrW ≤ s.regs.inLen ∨ 2 ^ s.cfg.addrW ≤ s.cur.byteOff ∨ 2 ^ s.cfg.addrW ≤ s.regs.outCap ∨
        2 ^ s.cfg.addrW ≤ s.outPos → exec .decode s = .refused .launchWidth) ∧
    (s.status.busy = false → launchWidthOk s = true →
      (∃ a, inside s.regs.inBase s.regs.inLen a ∧ inside s.regs.outBase s.regs.outCap a) → exec .decode s = .refused .buffersOverlap)

/-- R227: error entry from the state in which the error is raised: STATE, BUSY, DONE and ERR_KIND, with its code of R220, change, and
nothing else does. It is taken alike where the meaning of an element raises the error and where reading the element's header bits or
code does (R151, R141, R142); a failing ReadBit has consumed nothing, and no element follows. -/
def Obligations.RaisedErrorIsTaken : Prop :=
  (∀ (m : M Unit) (e : ErrKind) (s t : State), m s = .error (.raised e) t → finish m s = .next { t with
    blk := .error
    status := { t.status with busy := false, done := true, errKind := errCode e } }) ∧
  (∀ (e : ErrKind) (s t : State), s.status.busy = true → sequenceDone s = false → fetch s = .error (.raised e) t →
    engineStep s = .next { t with
      blk := .error
      status := { t.status with busy := false, done := true, errKind := errCode e } }) ∧
  (∀ s : State, s.regs.inLen ≤ s.cur.byteOff → readBit s = .error (.raised .endOfInput) s) ∧
  (∀ (e : ErrKind) (t : State), engineStep (enterError e t) = .next (enterError e t)) ∧
  [ErrKind.invalidBlockLength, .invalidBlockData, .invalidEncoding, .oversubscribedCode, .endOfInput].map errCode = [1, 2, 3, 4, 5]

/-- R9: the elements that would bring OUT_POS to 2^ADDR_W, and the alignment that would bring BYTE_OFF there, fault. At which element the
fault stands is DEDUCED (log entry 11). -/
def Obligations.OverflowFaults : Prop :=
  ∀ s : State, s.regs.inLen < 2 ^ s.cfg.addrW →
    (∀ b, 2 ^ s.cfg.addrW ≤ s.outPos + 1 → exec (.lit b) s = .fault .outPosOverflow) ∧
    (∀ (k : Nat) (i : Instr) (extra base d : Nat), distanceRows[k]? = some (i, extra, base) → readable s extra →
      d = base + fieldLsb s (bitPos s.cur) extra → d ≤ s.outPos → s.syms.mlen ≠ 0 →
      2 ^ s.cfg.addrW ≤ s.outPos + s.syms.mlen.toNat → exec i s = .fault .outPosOverflow) ∧
    (∀ b a, a = alignedOff s.cur → a + 4 + le16 s a ≤ s.regs.inLen → le16 s a + le16 s (a + 2) = 0xFFFF → le16 s a ≠ 0 →
      2 ^ s.cfg.addrW ≤ s.outPos + le16 s a → exec (.stored b) s = .fault .outPosOverflow) ∧
    (∀ b, s.cur.bitOff ≠ 0 → 2 ^ s.cfg.addrW ≤ s.cur.byteOff + 1 → exec (.stored b) s = .fault .byteOffOverflow)

/-! ## Rules of the whole machine -/

/-- R22, R23, R50, R51, R233: no instruction changes a parameter, IN_LEN, OUT_CAP, a base, IN or what the host holds, and none changes
OUT below its OUT_POS, at or above the OUT_POS it leaves, or at or past OUT_CAP. -/
def Obligations.InstructionFrame : Prop :=
  ∀ (i : Instr) (s t : State), exec i s = .next t →
    t.cfg = s.cfg ∧ t.regs = s.regs ∧ t.inBuf = s.inBuf ∧ t.hostQ = s.hostQ ∧ t.hostRd = s.hostRd ∧ s.outPos ≤ t.outPos ∧
    (s.outBuf.wf = true → ∀ o, o < s.outPos ∨ t.outPos ≤ o ∨ s.regs.outCap ≤ o → t.outBuf.read o = s.outBuf.read o)

/-- R24, R107: the cursor never moves back. No step of the engine, and so no DECODE, moves BYTE_OFF past both IN_LEN and where it
stood; the meaning of one instruction from any state moves it past IN_LEN by one byte at most, the bound R107 gives. -/
def Obligations.CursorNeverMovesBack : Prop :=
  (∀ s t : State, engineStep s = .next t ∨ runDecode s = .next t →
    bitPos s.cur ≤ bitPos t.cur ∧ t.cur.byteOff ≤ max s.regs.inLen s.cur.byteOff) ∧
  ∀ (i : Instr) (s t : State), exec i s = .next t →
    bitPos s.cur ≤ bitPos t.cur ∧ t.cur.byteOff ≤ max s.regs.inLen (s.cur.byteOff + 1)

/-- R225: where a DECODE that ends with EndOfInput leaves the cursor. -/
def Obligations.EndOfInputCursor : Prop :=
  ∀ s t : State, runDecode s = .next t → t.status.errKind = errCode .endOfInput →
    t.cur = if s.cur.byteOff < s.regs.inLen then { byteOff := s.regs.inLen, bitOff := 0 } else s.cur

/-- R191: TRUNCATED at the end of a DECODE says that a byte was dropped: OUT_POS moved and passed OUT_CAP; from a start at or below
OUT_CAP, that OUT_POS ended past it. -/
def Obligations.TruncatedMeansDropped : Prop :=
  ∀ s t : State, runDecode s = .next t →
    (t.status.truncated = true ↔ ∃ o, s.outPos ≤ o ∧ o < t.outPos ∧ s.regs.outCap ≤ o) ∧
    (s.outPos ≤ s.regs.outCap → (t.status.truncated = true ↔ s.regs.outCap < t.outPos))

/-- R196 (b) and (c), R25: over a DECODE OUT_POS does not decrease, and OUT changes only from the start OUT_POS up to the final one and
below OUT_CAP. -/
def Obligations.DecodeWritesOnlyItsOutput : Prop :=
  ∀ s t : State, runDecode s = .next t → s.outBuf.wf = true →
    s.outPos ≤ t.outPos ∧ t.outBuf.wf = true ∧
    ∀ o, o < s.outPos ∨ t.outPos ≤ o ∨ s.regs.outCap ≤ o → t.outBuf.read o = s.outBuf.read o

/-- R150, R167: the transitions of STATE: from a header to a block, the next header, DONE or ERROR; from a Huffman block to itself, a
header, DONE or ERROR; DONE only after a final block and a next header only after another; and BUSY falls exactly at DONE and ERROR. That
a step goes from a header straight to what follows a stored block, and never ends in STORED_BLOCK, is the model's: a stored block is one
step (DEDUCED, log entry 4). -/
def Obligations.BlockStateTransitions : Prop :=
  ∀ s t : State, s.status.busy = true → engineStep s = .next t →
    (s.blk = .readBlockHeader → t.blk ∈ [BlockState.readBlockHeader, .fixedBlock, .dynamicBlock, .done, .error]) ∧
    (s.blk = .fixedBlock → t.blk ∈ [BlockState.fixedBlock, .readBlockHeader, .done, .error]) ∧
    (s.blk = .dynamicBlock → t.blk ∈ [BlockState.dynamicBlock, .readBlockHeader, .done, .error]) ∧
    (t.blk = .done → t.hdr.bfinal = 1) ∧ (t.blk = .readBlockHeader → t.hdr.bfinal = 0) ∧
    (t.status.busy = false ↔ t.blk = .done ∨ t.blk = .error)

/-- R251, R229: an engine that is not BUSY reads nothing and does nothing; ERROR and DONE last until the next START. -/
def Obligations.IdleEngineDoesNothing : Prop :=
  ∀ s : State, s.status.busy = false → engineStep s = .next s ∧ (s.hostQ = [] → step s = .next s)

/-- R9, R24, R27, R29, R33, R41, R130, R136 (a): every step of the machine, the host's included, keeps: the buffers in canonical form,
STATUS in agreement with STATE, LS_I within the sequence, MLEN a length of a COPY before a distance symbol, the tables' pointers and
leaves within their alphabets, and the registers within their widths. That STATE is never STORED_BLOCK between steps is the model's: a
stored block is one step (DEDUCED, log entry 4). Its reset case rests on the model's reset values (DESIGN CHOICE, log entry 6), and the
canonical form of the buffers is the model's (log entry 2). -/
def Obligations.StepKeepsInvariant : Prop :=
  ∀ s t : State, MachineInv s → step s = .next t → MachineInv t

/-- The invariant holds right after reset. It rests on the model's reset values (DESIGN CHOICE, log entry 6) and parameters
(log entry 1). -/
def Obligations.ResetMeetsInvariant : Prop := MachineInv State.reset

/-- R250: for all parameters, after reset STATE is IDLE, STATUS is 0 and CTRL reads 0. That State.reset takes the parameters
Config.standard is a DESIGN CHOICE (log entry 1). -/
def Obligations.ResetIsIdle : Prop :=
  ∀ c : Config, (State.resetWith c).blk = .idle ∧ regValue (State.resetWith c) .status = 0 ∧
    regValue (State.resetWith c) .ctrl = 0 ∧ State.reset = State.resetWith Config.standard

/-- R44, R250: a reset ends whatever runs, leaves STATE IDLE, STATUS 0 and the parameters, and keeps the contents of both buffers. That a
reset is an entry of the host's queue is the model's (log entry 5). -/
def Obligations.ResetKeepsTheBuffers : Prop :=
  ∀ (s : State) (q : List HostOp), s.hostQ = .reset :: q →
    ∃ t, step s = .next t ∧ t.blk = .idle ∧ regValue t .status = 0 ∧ t.cfg = s.cfg ∧ t.inBuf = s.inBuf ∧ t.outBuf = s.outBuf ∧
      t.hostQ = q

/-- R169, R11: every DECODE whose premises hold and whose output cannot overflow OUT_POS ends, within the model's step bound, in DONE with
ERR_KIND 0 or in ERROR with one of the five kinds, having written at most 258 bytes for each bit of IN. The step bound is the model's (log
entry 4). -/
def Obligations.EveryDecodeEnds : Prop :=
  ∀ s : State, MachineInv s → s.status.busy = false → buffersOverlap s = false →
    s.outPos + 258 * (8 * s.regs.inLen) < 2 ^ s.cfg.addrW →
    ∃ t, runDecode s = .next t ∧ t.status.busy = false ∧ t.status.done = true ∧
      t.outPos ≤ s.outPos + 258 * (8 * s.regs.inLen) ∧
      ((t.blk = .done ∧ t.status.errKind = 0) ∨ (t.blk = .error ∧ ∃ e, t.status.errKind = errCode e))

/-- R9, R150: from a state of the invariant the engine never stops but for OUT_POS: no read overflows BYTE_OFF, no table leads outside
its alphabet, and nothing is refused. -/
def Obligations.OnlyOutputOverflowStopsTheEngine : Prop :=
  ∀ s : State, MachineInv s → (∀ f, engineStep s = .fault f → f = .outPosOverflow) ∧ ∀ r, engineStep s ≠ .refused r

/-- R12, R45, R203: a DECODE carries nothing over from an earlier one: from two states that a host has set up alike, whatever the
session registers hold, what the host can see at the end is the same. -/
def Obligations.SessionCarriesNothingOver : Prop :=
  ∀ s t : State, sameSetup s t → s.status.busy = false → t.status.busy = false →
    mapNext visible (runDecode s) = mapNext visible (runDecode t)

/-- R50, R10: an engine step depends on IN below IN_LEN only, and on neither base. -/
def Obligations.OnlyInputBelowLengthIsRead : Prop :=
  ∀ (s : State) (m : Memory) (b b' : Nat), (∀ a, a < s.regs.inLen → m.read a = s.inBuf.read a) →
    engineStep { s with inBuf := m, regs := { s.regs with inBase := b, outBase := b' } } =
      mapNext (fun t : State => { t with inBuf := m, regs := { t.regs with inBase := b, outBase := b' } }) (engineStep s)

/-- R69, R194: an engine step depends on OUT below OUT_CAP only: whatever stands at or past it, the states reached agree in everything
but OUT, and in OUT below OUT_CAP. -/
def Obligations.OutputPastCapacityIsUnobservable : Prop :=
  ∀ (s : State) (m : Memory), s.outBuf.wf = true → m.wf = true → (∀ a, a < s.regs.outCap → m.read a = s.outBuf.read a) →
    mapNext (fun t : State => { t with outBuf := [] }) (engineStep { s with outBuf := m }) =
      mapNext (fun t : State => { t with outBuf := [] }) (engineStep s) ∧
    ∀ t u, engineStep s = .next t → engineStep { s with outBuf := m } = .next u →
      ∀ a, a < s.regs.outCap → u.outBuf.read a = t.outBuf.read a

/-! ## The host -/

/-- R254, R27: the host can read STATUS at any time, and gets BUSY in bit 0, DONE in bit 1, ERR_KIND in bits 4 to 2, TRUNCATED in bit 5
and 0 above. -/
def Obligations.StatusIsReadable : Prop :=
  ∀ (s : State) (q : List HostOp), s.hostQ = .access (.read .status) :: q →
    ∃ w : Data, step s = .next { s with hostQ := q, hostRd := some w } ∧
      w.getLsbD 0 = s.status.busy ∧ w.getLsbD 1 = s.status.done ∧ w.extractLsb' 2 3 = s.status.errKind ∧
      w.getLsbD 5 = s.status.truncated ∧ w.toNat < 64

/-- R201, R254, R60: while BUSY, START is refused under its own name and every other access but a read of STATUS is refused. That a write
of 0 to CTRL and the reads of other registers are refused too is DEDUCED (log entry 14). -/
def Obligations.AccessWhileBusyIsRefused : Prop :=
  ∀ (s : State) (a : HostAccess) (q : List HostOp), s.status.busy = true → s.hostQ = .access a :: q →
    (∀ v, a = .write .ctrl v → v.getLsbD 0 = true → step s = .refused .startWhileBusy) ∧
    (a ≠ .read .status → (∀ v, a = .write .ctrl v → v.getLsbD 0 = false) → step s = .refused .hostAccessWhileBusy)

/-- R21, R26, R27: with no DECODE running, a register the host writes reads back the low bits it keeps and no other register changes; CTRL
reads 0 and a write to STATUS is ignored. A register wider than the host's 32 bits is the model's reading (log entry 14). -/
def Obligations.RegistersReadBack : Prop :=
  ∀ (s : State) (r : HostReg) (v : Data) (q : List HostOp), s.status.busy = false →
    s.hostQ = .access (.write r v) :: .access (.read r) :: q → (r = .ctrl → v.getLsbD 0 = false) →
    ∃ t u, step s = .next t ∧ step t = .next u ∧ u.hostQ = q ∧ u.inBuf = s.inBuf ∧ u.outBuf = s.outBuf ∧
      (r = .status → u.hostRd = some (regValue s .status)) ∧
      (r ≠ .status → u.hostRd = some (BitVec.ofNat 32 (v.toNat % 2 ^ regWidth s r))) ∧
      ∀ r', r' ≠ r → regValue u r' = regValue s r'

/-- R252 (5): a poll of STATUS lets the engine run on until DONE is 1, and then reads it. The queue of the host is the model's (log entry
5). -/
def Obligations.PollWaitsForDone : Prop :=
  ∀ (s : State) (q : List HostOp), s.hostQ = .pollDone :: q →
    (s.status.done = true → step s = .next { s with hostQ := q, hostRd := some (statusWord s.status) }) ∧
    (s.status.done = false → step s = engineStep s)

/-- R12, R235: a step of one engine changes no other, and a START that would let its OUT share an address with another engine's IN or OUT,
or its IN with another's OUT, is refused. That an idle engine's buffers count too is the model's (log entry 12). -/
def Obligations.EnginesAreIndependent : Prop :=
  ∀ (p : Platform) (k : Nat),
    (∀ p', p.stepOf k = .next p' → p'.engines.length = p.engines.length ∧
      ∀ j, j ≠ k → p'.engines[j]? = p.engines[j]?) ∧
    (∀ (s t u : State) (j a : Nat), p.engines[k]? = some s → j ≠ k → p.engines[j]? = some u → s.status.busy = false →
      step s = .next t → t.status.busy = true →
      (inside t.regs.outBase t.regs.outCap a ∧ (inside u.regs.outBase u.regs.outCap a ∨ inside u.regs.inBase u.regs.inLen a)) ∨
        (inside t.regs.inBase t.regs.inLen a ∧ inside u.regs.outBase u.regs.outCap a) →
      p.stepOf k = .refused .enginesOverlap)

/-- R44, R206, R252 (1): with no DECODE running, the host writes and reads any byte of IN and of OUT. A write changes that byte and
nothing else, and a read gives the byte and changes nothing but the data read. That a byte is accessed by its offset, one at a time, is
the model's (log entry 14). -/
def Obligations.HostReachesTheBuffers : Prop :=
  ∀ (s : State) (o : Nat) (v : Byte) (q : List HostOp), s.status.busy = false →
    (s.hostQ = .access (.writeIn o v) :: q → s.inBuf.wf = true →
      ∃ t, step s = .next t ∧ t = { s with hostQ := q, inBuf := t.inBuf } ∧ t.inBuf.wf = true ∧
        t.inBuf.read o = v ∧ ∀ a, a ≠ o → t.inBuf.read a = s.inBuf.read a) ∧
    (s.hostQ = .access (.writeOut o v) :: q → s.outBuf.wf = true →
      ∃ t, step s = .next t ∧ t = { s with hostQ := q, outBuf := t.outBuf } ∧ t.outBuf.wf = true ∧
        t.outBuf.read o = v ∧ ∀ a, a ≠ o → t.outBuf.read a = s.outBuf.read a) ∧
    (s.hostQ = .access (.readIn o) :: q →
      ∃ w : Data, step s = .next { s with hostQ := q, hostRd := some w } ∧ w.toNat = (s.inBuf.read o).toNat) ∧
    (s.hostQ = .access (.readOut o) :: q →
      ∃ w : Data, step s = .next { s with hostQ := q, hostRd := some w } ∧ w.toNat = (s.outBuf.read o).toNat)
end

