-- ==== Sys2Proof/Laws/Arrays.lean ====
section
/-! SUPPORT. The laws of the fixed-size arrays. -/

namespace Sys2Proof.Machine

theorem toList_tabSet {α : Type} {n : Nat} (v : Vector α n) (i : Nat) (a : α) : (tabSet v i a).toList = v.toList.set i a := by
  simp [tabSet, Vector.toList]

theorem toList_tabOfList {α : Type} (n : Nat) (l : List α) (d : α) : (tabOfList n l d).toList = (l ++ List.replicate n d).take n := by
  simp [tabOfList, Vector.toList]

/-- A list of the array's own length is the array's list. -/
theorem toList_tabOfList_of_length {α : Type} {n : Nat} {l : List α} (h : l.length = n) (d : α) : (tabOfList n l d).toList = l := by
  rw [toList_tabOfList, List.take_append_of_le_length (by omega), ← h, List.take_length]

/-- Entry `i` of an array made from a list: the list's while it lasts, then the filler. -/
theorem tabGet_tabOfList {α : Type} (n : Nat) (l : List α) (d : α) {i : Nat} (h : i < n) : tabGet (tabOfList n l d) i d = l.getD i d := by
  rw [tabGet, toList_tabOfList, List.getD_eq_getElem?_getD, List.getD_eq_getElem?_getD, List.getElem?_take_of_lt h]
  rcases Nat.lt_or_ge i l.length with hl | hl
  · rw [List.getElem?_append_left hl]
  · rw [List.getElem?_append_right hl, List.getElem?_eq_none hl, List.getElem?_replicate]
    split <;> rfl

theorem tabGet_tabSet {α : Type} {n : Nat} (v : Vector α n) (i j : Nat) (a d : α) :
    tabGet (tabSet v i a) j d = if j = i ∧ i < n then a else tabGet v j d := by
  simp only [tabGet, toList_tabSet, List.getD_eq_getElem?_getD, List.getElem?_set]
  have hl : v.toList.length = n := by simp
  by_cases h : i = j
  · subst h
    by_cases hi : i < n
    · simp [hi]
    · simp [hi, hl]
  · have : ¬ (j = i) := fun e => h e.symm
    simp [h, this]

end Sys2Proof.Machine
end

