-- ==== Sys2Proof/Laws/Monad.lean ====
section
/-! SUPPORT. What the pseudocode's steps do when run at a state, and how an element ends. -/

namespace Sys2Proof.Machine

@[simp] theorem bind_apply {α β : Type} (m : M α) (f : α → M β) (s : State) :
    (m >>= f) s = match m s with
      | .ok a s' => f a s'
      | .error e s' => .error e s' := by
  show EStateM.bind m f s = _
  unfold EStateM.bind
  cases m s <;> rfl

@[simp] theorem pure_apply {α : Type} (a : α) (s : State) : (pure a : M α) s = .ok a s := rfl

@[simp] theorem map_apply {α β : Type} (f : α → β) (m : M α) (s : State) :
    (f <$> m) s = match m s with
      | .ok a s' => .ok (f a) s'
      | .error e s' => .error e s' := by
  show EStateM.map f m s = _
  unfold EStateM.map
  cases m s <;> rfl

@[simp] theorem ite_apply_state {α : Type} (p : Prop) [Decidable p] (m n : M α) (s : State) :
    (if p then m else n) s = if p then m s else n s := by split <;> rfl

@[simp] theorem get_apply (s : State) : (get : M State) s = .ok s s := rfl

@[simp] theorem set_apply (t s : State) : (set t : M PUnit) s = .ok ⟨⟩ t := rfl

@[simp] theorem modify_apply (f : State → State) (s : State) : (modify f : M PUnit) s = .ok ⟨⟩ (f s) := rfl

@[simp] theorem throw_apply {α : Type} (e : Stop) (s : State) : (throw e : M α) s = .error e s := rfl

@[simp] theorem raise_apply {α : Type} (e : ErrKind) (s : State) : (raise e : M α) s = .error (.raised e) s := rfl

/-- An element that reaches its last line goes on from there. -/
theorem finish_of_ok {m : M Unit} {s s' : State} (h : m s = .ok () s') : finish m s = .next s' := by
  unfold finish; rw [h]

/-- A raised error is taken (R227). -/
theorem finish_of_raised {m : M Unit} {s s' : State} {e : ErrKind} (h : m s = .error (.raised e) s') :
    finish m s = .next (enterError e s') := by
  unfold finish; rw [h]

theorem finish_of_fault {m : M Unit} {s s' : State} {f : Fault} (h : m s = .error (.fault f) s') : finish m s = .fault f := by
  unfold finish; rw [h]

theorem finish_of_refused {m : M Unit} {s s' : State} {r : Refusal} (h : m s = .error (.refused r) s') : finish m s = .refused r := by
  unfold finish; rw [h]

/-- Every way an element can leave a next state. -/
theorem finish_next {m : M Unit} {s t : State} (h : finish m s = .next t) :
    m s = .ok () t ∨ ∃ e s', m s = .error (.raised e) s' ∧ t = enterError e s' := by
  unfold finish at h
  split at h
  · rename_i hm
    cases h
    exact .inl hm
  · rename_i e s' hm
    cases h
    exact .inr ⟨e, s', hm, rfl⟩
  · cases h
  · cases h

end Sys2Proof.Machine
end

