-- ==== Sys2Proof/Laws/Cursor.lean ====
section
/-! SUPPORT. The laws of the bit cursor (spec R107): what each read gives, where it leaves the cursor, and that it changes nothing else. -/

namespace Sys2Proof.Machine

/-! ## Positions -/

theorem bitPos_div (c : Cursor) : bitPos c / 8 = c.byteOff := by
  have := c.bitOff.isLt
  unfold bitPos; omega

theorem bitPos_mod (c : Cursor) : bitPos c % 8 = c.bitOff.toNat := by
  have := c.bitOff.isLt
  unfold bitPos; omega

@[simp] theorem bitPos_advance (c : Cursor) (n : Nat) : bitPos (advance c n) = bitPos c + n := by
  simp only [bitPos, advance, BitVec.toNat_ofNat]
  omega

/-- A cursor is its bit index. -/
theorem cursor_ext {c d : Cursor} (h : bitPos c = bitPos d) : c = d := by
  have h1 : c.byteOff = d.byteOff := by rw [← bitPos_div, ← bitPos_div, h]
  have h2 : c.bitOff = d.bitOff := BitVec.eq_of_toNat_eq (by rw [← bitPos_mod, ← bitPos_mod, h])
  cases c; cases d; simp_all

@[simp] theorem advance_zero (c : Cursor) : advance c 0 = c := cursor_ext (by simp)

@[simp] theorem advance_advance (c : Cursor) (m n : Nat) : advance (advance c m) n = advance c (m + n) :=
  cursor_ext (by simp [Nat.add_assoc])

theorem byteOff_lt_iff (c : Cursor) (n : Nat) : c.byteOff < n ↔ bitPos c < 8 * n := by
  have := c.bitOff.isLt
  unfold bitPos; omega

theorem streamBit_cursor (s : State) :
    streamBit s (bitPos s.cur) = (s.inBuf.read s.cur.byteOff).getLsbD s.cur.bitOff.toNat := by
  simp [streamBit, bitPos_div, bitPos_mod]

/-! ## The reads, one outcome each -/

theorem advanceByte_ok {s : State} (h : s.cur.byteOff + 1 < 2 ^ s.cfg.addrW) :
    advanceByte s = .ok () { s with cur := { byteOff := s.cur.byteOff + 1, bitOff := 0#3 } } := by
  have : ¬ 2 ^ s.cfg.addrW ≤ s.cur.byteOff + 1 := by omega
  simp [advanceByte, this]

theorem advanceByte_fault {s : State} (h : 2 ^ s.cfg.addrW ≤ s.cur.byteOff + 1) :
    advanceByte s = .error (.fault .byteOffOverflow) s := by
  simp [advanceByte, h]

/-- R100: a bit inside IN is read and the cursor moves one bit on. -/
theorem readBit_ok {s : State} (h : s.cur.byteOff < s.regs.inLen) (hw : s.regs.inLen < 2 ^ s.cfg.addrW) :
    readBit s = .ok (streamBit s (bitPos s.cur)) { s with cur := advance s.cur 1 } := by
  have h1 : ¬ s.regs.inLen ≤ s.cur.byteOff := by omega
  rw [streamBit_cursor]
  by_cases h7 : s.cur.bitOff = 7#3
  · have hc : advance s.cur 1 = { byteOff := s.cur.byteOff + 1, bitOff := 0#3 } := cursor_ext (by rw [bitPos_advance]; simp [bitPos, h7]; omega)
    simp [readBit, h1, h7, advanceByte_ok (s := s) (by omega), hc]
  · have hn : s.cur.bitOff.toNat ≠ 7 := fun e => h7 (BitVec.eq_of_toNat_eq (by simpa using e))
    have hlt := s.cur.bitOff.isLt
    have hc : advance s.cur 1 = { byteOff := s.cur.byteOff, bitOff := s.cur.bitOff + 1#3 } :=
      cursor_ext (by rw [bitPos_advance]; simp [bitPos, BitVec.toNat_add]; omega)
    simp [readBit, h1, h7, hc]

/-- R100: at the end of IN nothing is read and nothing changes. -/
theorem readBit_end {s : State} (h : s.regs.inLen ≤ s.cur.byteOff) : readBit s = .error (.raised .endOfInput) s := by
  simp [readBit, h]

/-- Every way a bit can be read. -/
theorem readBit_inv {s s' : State} {b : Bool} (h : readBit s = .ok b s') :
    s.cur.byteOff < s.regs.inLen ∧ b = streamBit s (bitPos s.cur) ∧ s' = { s with cur := advance s.cur 1 } := by
  by_cases hl : s.regs.inLen ≤ s.cur.byteOff
  · rw [readBit_end hl] at h; cases h
  · refine ⟨by omega, ?_⟩
    by_cases h7 : s.cur.bitOff = 7#3
    · by_cases hw : 2 ^ s.cfg.addrW ≤ s.cur.byteOff + 1
      · simp [readBit, hl, h7, advanceByte_fault hw] at h
      · have hc : advance s.cur 1 = { byteOff := s.cur.byteOff + 1, bitOff := 0#3 } := cursor_ext (by rw [bitPos_advance]; simp [bitPos, h7]; omega)
        simp only [readBit, bind_apply, get_apply, hl, h7, if_false, if_true, advanceByte_ok (s := s) (by omega), pure_apply] at h
        cases h
        rw [streamBit_cursor, hc, h7]
        exact ⟨rfl, rfl⟩
    · have hn : s.cur.bitOff.toNat ≠ 7 := fun e => h7 (BitVec.eq_of_toNat_eq (by simpa using e))
      have hlt := s.cur.bitOff.isLt
      have hc : advance s.cur 1 = { byteOff := s.cur.byteOff, bitOff := s.cur.bitOff + 1#3 } :=
        cursor_ext (by rw [bitPos_advance]; simp [bitPos, BitVec.toNat_add]; omega)
      simp only [readBit, bind_apply, get_apply, hl, h7, if_false, set_apply, pure_apply] at h
      cases h
      rw [streamBit_cursor, hc]
      exact ⟨rfl, rfl⟩

/-- Every way reading a bit can stop. -/
theorem readBit_stop {s s' : State} {e : Stop} (h : readBit s = .error e s') :
    s' = s ∧ ((e = .raised .endOfInput ∧ s.regs.inLen ≤ s.cur.byteOff) ∨
      (e = .fault .byteOffOverflow ∧ s.cur.byteOff < s.regs.inLen ∧ 2 ^ s.cfg.addrW ≤ s.cur.byteOff + 1)) := by
  by_cases hl : s.regs.inLen ≤ s.cur.byteOff
  · rw [readBit_end hl] at h; cases h
    exact ⟨rfl, .inl ⟨rfl, hl⟩⟩
  · by_cases h7 : s.cur.bitOff = 7#3
    · by_cases hw : 2 ^ s.cfg.addrW ≤ s.cur.byteOff + 1
      · simp only [readBit, bind_apply, get_apply, hl, h7, if_false, if_true, advanceByte_fault hw] at h
        cases h
        exact ⟨rfl, .inr ⟨rfl, by omega, hw⟩⟩
      · simp [readBit, hl, h7, advanceByte_ok (s := s) (by omega)] at h
    · simp [readBit, hl, h7] at h

theorem readable_zero {s : State} (hw : s.regs.inLen < 2 ^ s.cfg.addrW) : readable s 0 := ⟨hw, .inl rfl⟩

theorem readable_succ {s : State} {n : Nat} (h : readable s (n + 1)) :
    s.cur.byteOff < s.regs.inLen ∧ readable { s with cur := advance s.cur 1 } n := by
  obtain ⟨hw, h | h⟩ := h
  · omega
  · refine ⟨(byteOff_lt_iff _ _).2 (by omega), hw, .inr ?_⟩
    simp only [bitPos_advance]; omega

theorem readable_of_le {s : State} {m n : Nat} (h : readable s n) (hm : m ≤ n) : readable s m := by
  refine ⟨h.1, ?_⟩
  rcases h.2 with h | h
  · exact .inl (by omega)
  · exact .inr (by omega)

theorem readable_advance {s : State} {m n : Nat} (h : readable s (m + n)) : readable { s with cur := advance s.cur m } n := by
  refine ⟨h.1, ?_⟩
  rcases h.2 with h | h
  · exact .inl (by omega)
  · exact .inr (by simp only [bitPos_advance]; omega)

@[simp] theorem fieldLsb_cur (s : State) (c : Cursor) (k n : Nat) : fieldLsb { s with cur := c } k n = fieldLsb s k n := by
  induction n generalizing k with
  | zero => rfl
  | succ n ih => simp [fieldLsb, streamBit, ih]

/-- R101: `n` bits inside IN give their field, first bit lowest, and the cursor moves `n` bits on. -/
theorem readLsb_ok {s : State} {n : Nat} (h : readable s n) :
    readLsb n s = .ok (fieldLsb s (bitPos s.cur) n) { s with cur := advance s.cur n } := by
  induction n generalizing s with
  | zero => simp [readLsb, fieldLsb]
  | succ n ih =>
    obtain ⟨h1, h2⟩ := readable_succ h
    simp [readLsb, readBit_ok h1 h.1, ih h2, fieldLsb, Nat.add_comm 1]

/-- R101, R225: `n` bits that IN does not hold. The bits before the end are consumed. -/
theorem readLsb_end {s : State} {n : Nat} (hw : s.regs.inLen < 2 ^ s.cfg.addrW) (hn : n ≠ 0)
    (h : 8 * s.regs.inLen < bitPos s.cur + n) :
    readLsb n s = .error (.raised .endOfInput) { s with cur := endCursor s } := by
  induction n generalizing s with
  | zero => exact absurd rfl hn
  | succ n ih =>
    by_cases hl : s.cur.byteOff < s.regs.inLen
    · have he : endCursor { s with cur := advance s.cur 1 } = endCursor s := by
        have hp := (byteOff_lt_iff s.cur s.regs.inLen).1 hl
        by_cases hl2 : (advance s.cur 1).byteOff < s.regs.inLen
        · simp [endCursor, hl, hl2]
        · have hp2 : ¬ bitPos (advance s.cur 1) < 8 * s.regs.inLen := fun e => hl2 ((byteOff_lt_iff _ _).2 e)
          simp only [endCursor, hl, hl2, if_true, if_false]
          refine cursor_ext ?_
          simp only [bitPos_advance] at hp2 ⊢
          simp only [bitPos] at hp hp2 ⊢
          simp
          omega
      have hn' : n ≠ 0 := by
        rintro rfl
        have := (byteOff_lt_iff s.cur s.regs.inLen).1 hl
        omega
      simp only [readLsb, bind_apply, readBit_ok hl hw]
      rw [ih (s := { s with cur := advance s.cur 1 }) hw hn' (by simp only [bitPos_advance]; omega), he]
    · simp [readLsb, readBit_end (s := s) (by omega), endCursor, hl]

/-- Every way a field can be read. -/
theorem readLsb_inv {n : Nat} {s s' : State} {v : Nat} (h : readLsb n s = .ok v s') :
    v = fieldLsb s (bitPos s.cur) n ∧ s' = { s with cur := advance s.cur n } ∧ (n = 0 ∨ bitPos s.cur + n ≤ 8 * s.regs.inLen) := by
  induction n generalizing s s' v with
  | zero => simp only [readLsb, pure_apply] at h; cases h; simp [fieldLsb]
  | succ n ih =>
    simp only [readLsb, bind_apply] at h
    cases hb : readBit s with
    | error e t => rw [hb] at h; cases h
    | ok b t =>
      obtain ⟨hl, rfl, rfl⟩ := readBit_inv hb
      simp only [hb] at h
      cases hv : readLsb n { s with cur := advance s.cur 1 } with
      | error e t => simp only [hv] at h; cases h
      | ok v' t =>
        obtain ⟨rfl, rfl, hr⟩ := ih hv
        simp only [hv, pure_apply] at h
        cases h
        have hp := (byteOff_lt_iff s.cur s.regs.inLen).1 hl
        refine ⟨by simp [fieldLsb], by simp [Nat.add_comm 1], .inr ?_⟩
        simp only [bitPos_advance] at hr
        omega

/-- A one-bit read most significant bit first is a bit read (R102). -/
theorem readMsb_one (s : State) : readMsb 1 s = match readBit s with
    | .ok b s' => .ok b.toNat s'
    | .error e s' => .error e s' := by
  simp only [readMsb, readMsbFrom, bind_apply, pure_apply]
  cases readBit s <;> simp

/-- R103. -/
theorem alignToByte_aligned {s : State} (h : s.cur.bitOff = 0#3) : alignToByte s = .ok () s := by
  simp [alignToByte, h]

theorem alignToByte_skip {s : State} (h : s.cur.bitOff ≠ 0#3) (hw : s.cur.byteOff + 1 < 2 ^ s.cfg.addrW) :
    alignToByte s = .ok () { s with cur := { byteOff := s.cur.byteOff + 1, bitOff := 0#3 } } := by
  simp [alignToByte, h, advanceByte_ok hw]

/-- R103, wherever the cursor stands. -/
theorem alignToByte_ok {s : State} (h : alignedOff s.cur < 2 ^ s.cfg.addrW) :
    alignToByte s = .ok () { s with cur := { byteOff := alignedOff s.cur, bitOff := 0#3 } } := by
  by_cases h0 : s.cur.bitOff = 0#3
  · rw [alignToByte_aligned h0]
    have : s.cur = { byteOff := alignedOff s.cur, bitOff := 0#3 } := by
      cases hc : s.cur with | mk b o => rw [hc] at h0; simp at h0; subst h0; simp [alignedOff]
    rw [← this]
  · have : alignedOff s.cur = s.cur.byteOff + 1 := by unfold alignedOff; rw [if_neg h0]
    rw [alignToByte_skip h0 (by omega), this]

/-- R104: a byte inside IN is read and the cursor moves to the next. -/
theorem readByte_ok {s : State} (h : s.cur.byteOff < s.regs.inLen) (hw : s.regs.inLen < 2 ^ s.cfg.addrW) :
    readByte s = .ok (s.inBuf.read s.cur.byteOff) { s with cur := { byteOff := s.cur.byteOff + 1, bitOff := 0#3 } } := by
  have h1 : ¬ s.regs.inLen ≤ s.cur.byteOff := by omega
  simp [readByte, h1, advanceByte_ok (s := s) (by omega)]

theorem readByte_end {s : State} (h : s.regs.inLen ≤ s.cur.byteOff) : readByte s = .error (.raised .endOfInput) s := by
  simp [readByte, h]

/-- R105: two bytes inside IN, the first the low one. -/
theorem readLe16_ok {s : State} (h : s.cur.byteOff + 2 ≤ s.regs.inLen) (hw : s.regs.inLen < 2 ^ s.cfg.addrW) :
    readLe16 s = .ok ((s.inBuf.read s.cur.byteOff).toNat + 256 * (s.inBuf.read (s.cur.byteOff + 1)).toNat)
      { s with cur := { byteOff := s.cur.byteOff + 2, bitOff := 0#3 } } := by
  have h2 := readByte_ok (s := { s with cur := { byteOff := s.cur.byteOff + 1, bitOff := 0#3 } }) (by simp; omega) hw
  simp [readLe16, readByte_ok (s := s) (by omega) hw, h2]

end Sys2Proof.Machine
end

