-- ==== Sys2Proof/Laws/Memory.lean ====
section
/-! SUPPORT. The laws of the buffers: every write keeps the canonical form, a read after a write gives the byte written, and every other
byte stays. -/

namespace Sys2Proof.Machine

theorem Memory.cell_of_unlisted (a : Nat) : Memory.cell a Memory.unlisted = [] := by simp [Memory.cell]

theorem Memory.cell_of_ne {v : Byte} (a : Nat) (h : v ≠ Memory.unlisted) : Memory.cell a v = [(a, v)] := by simp [Memory.cell, h]

theorem Memory.wfFrom_mono {lo lo' : Nat} (h : lo' ≤ lo) {m : Memory} (w : Memory.wfFrom lo m = true) : Memory.wfFrom lo' m = true := by
  cases m with
  | nil => rfl
  | cons c m =>
    obtain ⟨a, v⟩ := c
    simp only [Memory.wfFrom, Bool.and_eq_true, decide_eq_true_eq] at w ⊢
    exact ⟨⟨by omega, w.1.2⟩, w.2⟩

/-- Below the lower bound of a canonical memory every byte is the unlisted one. -/
theorem Memory.read_below {lo a : Nat} (h : a < lo) {m : Memory} (w : Memory.wfFrom lo m = true) : Memory.read m a = Memory.unlisted := by
  cases m with
  | nil => rfl
  | cons c m =>
    obtain ⟨b, v⟩ := c
    simp only [Memory.wfFrom, Bool.and_eq_true, decide_eq_true_eq] at w
    have h1 : a ≠ b := by omega
    have h2 : a < b := by omega
    simp [Memory.read, h1, h2]

theorem Memory.wfFrom_cell_append {a lo : Nat} (v : Byte) {m : Memory} (h : lo ≤ a) (w : Memory.wfFrom (a + 1) m = true) :
    Memory.wfFrom lo (Memory.cell a v ++ m) = true := by
  by_cases hv : v = Memory.unlisted
  · subst hv
    rw [Memory.cell_of_unlisted]
    exact Memory.wfFrom_mono (by omega) w
  · rw [Memory.cell_of_ne a hv]
    simp [Memory.wfFrom, h, hv, w]

theorem Memory.wfFrom_write {lo a : Nat} (v : Byte) (h : lo ≤ a) {m : Memory} (w : Memory.wfFrom lo m = true) :
    Memory.wfFrom lo (Memory.write m a v) = true := by
  induction m generalizing lo with
  | nil => simpa [Memory.write] using Memory.wfFrom_cell_append (m := []) v h rfl
  | cons c m ih =>
    obtain ⟨b, u⟩ := c
    have w' := w
    simp only [Memory.wfFrom, Bool.and_eq_true, decide_eq_true_eq] at w'
    simp only [Memory.write]
    split
    · rename_i hab
      refine Memory.wfFrom_cell_append v h ?_
      simp only [Memory.wfFrom, Bool.and_eq_true, decide_eq_true_eq]
      exact ⟨⟨by omega, w'.1.2⟩, w'.2⟩
    · split
      · rename_i hab
        subst hab
        exact Memory.wfFrom_cell_append v h w'.2
      · simp only [Memory.wfFrom, Bool.and_eq_true, decide_eq_true_eq]
        exact ⟨w'.1, ih (by omega) w'.2⟩

/-- A write keeps the canonical form. -/
theorem Memory.write_wf {m : Memory} (a : Nat) (v : Byte) (w : m.wf = true) : (m.write a v).wf = true :=
  Memory.wfFrom_write v (Nat.zero_le a) w

theorem Memory.read_cell_append_self {a lo : Nat} (v : Byte) {m : Memory} (h : a < lo) (w : Memory.wfFrom lo m = true) :
    Memory.read (Memory.cell a v ++ m) a = v := by
  by_cases hv : v = Memory.unlisted
  · subst hv
    rw [Memory.cell_of_unlisted]
    exact Memory.read_below h w
  · rw [Memory.cell_of_ne a hv]
    simp [Memory.read]

theorem Memory.read_cell_append_other {a c : Nat} (v : Byte) {m : Memory} (h : c ≠ a) (w : Memory.wfFrom (a + 1) m = true) :
    Memory.read (Memory.cell a v ++ m) c = Memory.read m c := by
  by_cases hv : v = Memory.unlisted
  · subst hv
    rw [Memory.cell_of_unlisted]
    rfl
  · rw [Memory.cell_of_ne a hv]
    simp only [List.cons_append, List.nil_append, Memory.read, if_neg h]
    split
    · exact (Memory.read_below (by omega) w).symm
    · rfl

theorem Memory.read_write_from (a c : Nat) (v : Byte) {lo : Nat} {m : Memory} (w : Memory.wfFrom lo m = true) :
    Memory.read (Memory.write m a v) c = if c = a then v else Memory.read m c := by
  induction m generalizing lo with
  | nil =>
    by_cases hc : c = a
    · subst hc
      simpa [Memory.write] using Memory.read_cell_append_self (lo := c + 1) (m := []) v (by omega) rfl
    · simpa [Memory.write, hc] using Memory.read_cell_append_other (m := []) v hc rfl
  | cons d m ih =>
    obtain ⟨b, u⟩ := d
    simp only [Memory.wfFrom, Bool.and_eq_true, decide_eq_true_eq] at w
    simp only [Memory.write]
    split
    · rename_i hab
      have w2 : Memory.wfFrom (a + 1) ((b, u) :: m) = true := by
        simp only [Memory.wfFrom, Bool.and_eq_true, decide_eq_true_eq]
        exact ⟨⟨by omega, w.1.2⟩, w.2⟩
      by_cases hc : c = a
      · subst hc
        simpa using Memory.read_cell_append_self v (Nat.lt_succ_self c) w2
      · simpa [hc] using Memory.read_cell_append_other v hc w2
    · split
      · rename_i hab
        subst hab
        by_cases hc : c = a
        · subst hc
          simpa using Memory.read_cell_append_self v (Nat.lt_succ_self c) w.2
        · rw [if_neg hc, Memory.read_cell_append_other v hc w.2]
          simp only [Memory.read, if_neg hc]
          split
          · exact Memory.read_below (by omega) w.2
          · rfl
      · rename_i h1 h2
        simp only [Memory.read]
        by_cases hcb : c = b
        · subst hcb
          have : c ≠ a := by omega
          simp [this]
        · simp only [if_neg hcb]
          split
          · have : c ≠ a := by omega
            simp [this]
          · exact ih w.2

/-- A read after a write: the byte written at its own offset, the old byte at every other. -/
theorem Memory.read_write {m : Memory} (w : m.wf = true) (a c : Nat) (v : Byte) :
    (m.write a v).read c = if c = a then v else m.read c :=
  Memory.read_write_from a c v w

end Sys2Proof.Machine
end

