-- ==== Sys2Proof/Laws/Sink.lean ====
section
/-! SUPPORT. The laws of the output sink and of the two loops that feed it (spec R190 to R196): where OUT_POS ends, which bytes are
stored, and that nothing else changes. -/

namespace Sys2Proof.Machine

theorem sinkWrite_ok {s : State} (v : Byte) (h : s.outPos + 1 < 2 ^ s.cfg.addrW) : sinkWrite v s = .ok () (afterSink v s) := by
  have h1 : ¬ 2 ^ s.cfg.addrW ≤ s.outPos + 1 := by omega
  simp only [sinkWrite, bind_apply, get_apply, ite_apply_state, h1, if_false, set_apply, afterSink]
  split <;> rfl

theorem sinkWrite_fault {s : State} (v : Byte) (h : 2 ^ s.cfg.addrW ≤ s.outPos + 1) :
    sinkWrite v s = .error (.fault .outPosOverflow) s := by
  simp [sinkWrite, h]

/-- Every way a byte can go to the sink. -/
theorem sinkWrite_inv {s s' : State} {v : Byte} (h : sinkWrite v s = .ok () s') :
    s.outPos + 1 < 2 ^ s.cfg.addrW ∧ s' = afterSink v s := by
  by_cases hw : 2 ^ s.cfg.addrW ≤ s.outPos + 1
  · rw [sinkWrite_fault v hw] at h; cases h
  · rw [sinkWrite_ok v (by omega)] at h; cases h
    exact ⟨by omega, rfl⟩

/-- What one byte to the sink changes: OUT_POS, the byte at the old OUT_POS when it is below OUT_CAP, and TRUNCATED when it is not. -/
theorem afterSink_eq (v : Byte) (s : State) :
    afterSink v s = { s with
      outPos := s.outPos + 1
      outBuf := (afterSink v s).outBuf
      status := { s.status with truncated := s.status.truncated || decide (s.regs.outCap ≤ s.outPos) } } := by
  unfold afterSink
  split
  · have : ¬ s.regs.outCap ≤ s.outPos := by omega
    simp [this]
  · have : s.regs.outCap ≤ s.outPos := by omega
    simp [this]

theorem afterSink_wf {v : Byte} {s : State} (w : s.outBuf.wf = true) : (afterSink v s).outBuf.wf = true := by
  unfold afterSink
  split
  · exact Memory.write_wf _ _ w
  · exact w

theorem afterSink_read {s : State} (v : Byte) (w : s.outBuf.wf = true) (a : Nat) :
    (afterSink v s).outBuf.read a = if a = s.outPos ∧ s.outPos < s.regs.outCap then v else s.outBuf.read a := by
  unfold afterSink
  split
  · rename_i h
    simp [Memory.read_write w, h]
  · rename_i h
    simp [h]

/-- The state after `n` bytes went to the sink, but for the bytes stored and the copy counter. -/
def afterSinks (n : Nat) (buf : Memory) (s : State) : State :=
  { s with
    outPos := s.outPos + n
    outBuf := buf
    status := { s.status with truncated := s.status.truncated || decide (0 < n ∧ s.regs.outCap < s.outPos + n) } }

theorem afterSinks_succ (v : Byte) (n : Nat) (buf : Memory) (s : State) :
    afterSinks n buf (afterSink v s) = afterSinks (n + 1) buf s := by
  rw [afterSink_eq]
  simp only [afterSinks]
  have h1 : s.outPos + 1 + n = s.outPos + (n + 1) := by omega
  have h2 : (s.status.truncated || decide (s.regs.outCap ≤ s.outPos) || decide (0 < n ∧ s.regs.outCap < s.outPos + (n + 1))) =
      (s.status.truncated || decide (0 < n + 1 ∧ s.regs.outCap < s.outPos + (n + 1))) := by
    rw [Bool.or_assoc]
    congr 1
    rw [← Bool.decide_or]
    exact decide_eq_decide.2 (by omega)
  rw [h1, h2]

/-- The copy counter replaced. -/
def withCopyLeft (n : Nat) (s : State) : State := { s with syms := { s.syms with copyLeft := BitVec.ofNat 16 n } }

theorem setCopyLeft_apply (n : Nat) (s : State) : setCopyLeft n s = .ok () (withCopyLeft n s) := rfl

theorem afterSinks_withCopyLeft (n k : Nat) (buf : Memory) (s : State) :
    afterSinks n buf (withCopyLeft k s) = withCopyLeft k (afterSinks n buf s) := rfl

theorem withCopyLeft_withCopyLeft (m n : Nat) (s : State) : withCopyLeft m (withCopyLeft n s) = withCopyLeft m s := rfl

theorem afterSinks_zero (s : State) : afterSinks 0 s.outBuf s = s := by simp [afterSinks]

/-- R192, R193: a copy of `n` bytes from `dist` behind OUT_POS. Every byte it stores equals the byte `dist` before it, and every other
byte of OUT stays. -/
theorem copyBytes_ok {dist : Nat} (hd : 0 < dist) (n : Nat) {s : State} (hp : dist ≤ s.outPos) (hw : s.outPos + n < 2 ^ s.cfg.addrW)
    (w : s.outBuf.wf = true) :
    ∃ buf : Memory, copyBytes dist n s = .ok () (if n = 0 then s else withCopyLeft 0 (afterSinks n buf s)) ∧
      (n = 0 → buf = s.outBuf) ∧ buf.wf = true ∧
      ∀ a, buf.read a = if s.outPos ≤ a ∧ a < s.outPos + n ∧ a < s.regs.outCap then buf.read (a - dist) else s.outBuf.read a := by
  induction n generalizing s with
  | zero =>
    refine ⟨s.outBuf, by simp [copyBytes], fun _ => rfl, w, fun a => ?_⟩
    rw [if_neg (by omega)]
  | succ n ih =>
    let v := copySource s (s.outPos - dist)
    let s1 := withCopyLeft n (afterSink v s)
    have e1 : s1.outPos = s.outPos + 1 := by show (afterSink v s).outPos = _; rw [afterSink_eq]
    have e2 : s1.regs = s.regs := by show (afterSink v s).regs = _; rw [afterSink_eq]
    have e3 : s1.cfg = s.cfg := by show (afterSink v s).cfg = _; rw [afterSink_eq]
    have e4 : s1.outBuf = (afterSink v s).outBuf := rfl
    obtain ⟨buf, hc, h0, hwf, hr⟩ := ih (s := s1) (by omega) (by rw [e1, e3]; omega) (by rw [e4]; exact afterSink_wf w)
    have hrun : copyBytes dist (n + 1) s = copyBytes dist n s1 := by
      simp only [copyBytes, bind_apply, get_apply]
      rw [sinkWrite_ok _ (by omega)]
      rfl
    refine ⟨buf, ?_, fun h => absurd h (by omega), hwf, fun a => ?_⟩
    · rw [hrun, hc, if_neg (by omega : ¬ n + 1 = 0)]
      congr 1
      by_cases hn : n = 0
      · subst hn
        rw [if_pos rfl, h0 rfl, e4, ← afterSinks_succ v]
        have := afterSinks_zero (afterSink v s)
        rw [this]
      · rw [if_neg hn]
        show withCopyLeft 0 (afterSinks n buf (withCopyLeft n (afterSink v s))) = _
        rw [afterSinks_withCopyLeft, withCopyLeft_withCopyLeft, afterSinks_succ]
    · rw [hr a, e1, e2, e4, afterSink_read v w]
      by_cases ha : a = s.outPos
      · subst ha
        by_cases hcap : s.outPos < s.regs.outCap
        · rw [if_neg (by omega), if_pos ⟨rfl, hcap⟩, if_pos (by omega)]
          rw [hr (s.outPos - dist), e1, e2, e4, afterSink_read v w, if_neg (by omega), if_neg (by omega)]
          show copySource s (s.outPos - dist) = _
          rw [copySource, if_pos (by omega)]
        · rw [if_neg (by omega), if_neg (by omega), if_neg (by omega)]
      · by_cases hin : s.outPos ≤ a ∧ a < s.outPos + (n + 1) ∧ a < s.regs.outCap
        · rw [if_pos (by omega), if_pos hin]
        · rw [if_neg (by omega), if_neg (by omega), if_neg hin]

/-- R156: the data of a stored block, where IN holds it. -/
theorem storedBytes_ok (n : Nat) {s : State} (ha : s.cur.bitOff = 0#3) (hi : s.cur.byteOff + n ≤ s.regs.inLen)
    (hl : s.regs.inLen < 2 ^ s.cfg.addrW) (hw : s.outPos + n < 2 ^ s.cfg.addrW) (w : s.outBuf.wf = true) :
    ∃ buf : Memory, storedBytes n s = .ok ()
        (if n = 0 then s
         else { withCopyLeft 0 (afterSinks n buf s) with cur := { byteOff := s.cur.byteOff + n, bitOff := 0#3 } }) ∧
      (n = 0 → buf = s.outBuf) ∧ buf.wf = true ∧
      ∀ a, buf.read a = if s.outPos ≤ a ∧ a < s.outPos + n ∧ a < s.regs.outCap
        then s.inBuf.read (s.cur.byteOff + (a - s.outPos)) else s.outBuf.read a := by
  induction n generalizing s with
  | zero =>
    refine ⟨s.outBuf, by simp [storedBytes], fun _ => rfl, w, fun a => ?_⟩
    rw [if_neg (by omega)]
  | succ n ih =>
    let v := s.inBuf.read s.cur.byteOff
    let c : Cursor := { byteOff := s.cur.byteOff + 1, bitOff := 0#3 }
    let s1 := withCopyLeft n (afterSink v { s with cur := c })
    have e0 : afterSink v { s with cur := c } = { afterSink v s with cur := c } := by unfold afterSink; dsimp only; split <;> rfl
    have e1 : s1.outPos = s.outPos + 1 := by show (afterSink v { s with cur := c }).outPos = _; rw [afterSink_eq]
    have e2 : s1.regs = s.regs := by show (afterSink v { s with cur := c }).regs = _; rw [afterSink_eq]
    have e3 : s1.cfg = s.cfg := by show (afterSink v { s with cur := c }).cfg = _; rw [afterSink_eq]
    have e4 : s1.outBuf = (afterSink v s).outBuf := by show (afterSink v { s with cur := c }).outBuf = _; rw [e0]
    have e5 : s1.cur = c := by show (afterSink v { s with cur := c }).cur = _; rw [e0]
    have e6 : s1.inBuf = s.inBuf := by show (afterSink v { s with cur := c }).inBuf = _; rw [afterSink_eq]
    obtain ⟨buf, hc, h0, hwf, hr⟩ := ih (s := s1) (by rw [e5]) (by rw [e5, e2]; show s.cur.byteOff + 1 + n ≤ _; omega)
      (by rw [e2, e3]; exact hl) (by rw [e1, e3]; omega) (by rw [e4]; exact afterSink_wf w)
    have hrun : storedBytes (n + 1) s = storedBytes n s1 := by
      simp only [storedBytes, bind_apply]
      rw [readByte_ok (s := s) (by omega) hl]
      dsimp only
      rw [sinkWrite_ok (s := { s with cur := c }) v (by show s.outPos + 1 < 2 ^ s.cfg.addrW; omega)]
      rfl
    refine ⟨buf, ?_, fun h => absurd h (by omega), hwf, fun a => ?_⟩
    · rw [hrun, hc, if_neg (by omega : ¬ n + 1 = 0)]
      congr 1
      by_cases hn : n = 0
      · subst hn
        rw [if_pos rfl, h0 rfl, e4, ← afterSinks_succ v, afterSinks_zero (afterSink v s)]
        show withCopyLeft 0 (afterSink v { s with cur := c }) = _
        rw [e0]
        rfl
      · rw [if_neg hn, e5]
        show { withCopyLeft 0 (afterSinks n buf (withCopyLeft n (afterSink v { s with cur := c }))) with
          cur := { byteOff := s.cur.byteOff + 1 + n, bitOff := 0#3 } } = _
        rw [e0, afterSinks_withCopyLeft, withCopyLeft_withCopyLeft]
        show { withCopyLeft 0 (afterSinks n buf (afterSink v s)) with
          cur := { byteOff := s.cur.byteOff + 1 + n, bitOff := 0#3 } } = _
        rw [afterSinks_succ, Nat.add_assoc, Nat.add_comm 1 n]
    · rw [hr a, e1, e2, e4, e5, e6, afterSink_read v w]
      by_cases ha : a = s.outPos
      · subst ha
        by_cases hcap : s.outPos < s.regs.outCap
        · rw [if_neg (by omega), if_pos ⟨rfl, hcap⟩, if_pos (by omega)]
          simp [v]
        · rw [if_neg (by omega), if_neg (by omega), if_neg (by omega)]
      · by_cases hin : s.outPos ≤ a ∧ a < s.outPos + (n + 1) ∧ a < s.regs.outCap
        · rw [if_pos (by omega), if_pos hin]
          congr 1
          show s.cur.byteOff + 1 + (a - (s.outPos + 1)) = _
          omega
        · rw [if_neg (by omega), if_neg (by omega), if_neg hin]

end Sys2Proof.Machine
end

