-- ==== Sys2Proof/Laws/Elements.lean ====
section
/-! SUPPORT. What the two parts of a COPY and the runs of code lengths do, each said once (spec R163 to R165, R183 to R188). -/

namespace Sys2Proof.Machine

theorem fieldLsb_lt (s : State) (k n : Nat) : fieldLsb s k n < 2 ^ n := by
  induction n generalizing k with
  | zero => simp [fieldLsb]
  | succ n ih =>
    have h1 := ih (k + 1)
    have h2 : (streamBit s k).toNat ≤ 1 := by cases streamBit s k <;> simp
    simp only [fieldLsb, Nat.pow_succ]
    omega

/-- IN and the cursor decide what is readable. -/
theorem readable_congr {s t : State} (h1 : t.regs = s.regs) (h2 : t.cfg = s.cfg) (h3 : t.cur = s.cur) {n : Nat} :
    readable t n ↔ readable s n := by
  unfold readable; rw [h1, h2, h3]

theorem fieldLsb_congr {s t : State} (h : t.inBuf = s.inBuf) (k n : Nat) : fieldLsb t k n = fieldLsb s k n := by
  induction n generalizing k with
  | zero => rfl
  | succ n ih => simp only [fieldLsb, streamBit, ih, h]

@[simp] theorem fieldLsb_syms (s : State) (y : SymbolRegs) (k n : Nat) : fieldLsb { s with syms := y } k n = fieldLsb s k n :=
  fieldLsb_congr (s := s) (t := { s with syms := y }) rfl k n

/-- R183: the length part of a COPY whose extra bits IN holds. -/
theorem copyLength_ok {s : State} {j : Nat} (hj : j ≤ 28) (hr : readable s (lenExtra.getD j 0)) :
    copyLength j s = .ok () { s with
      cur := advance s.cur (lenExtra.getD j 0)
      syms := { s.syms with
        sym := BitVec.ofNat 9 (257 + j)
        mlen := BitVec.ofNat 9 (mlenOf j (fieldLsb s (bitPos s.cur) (lenExtra.getD j 0))) }
      loopAt := .distance } := by
  unfold copyLength
  rw [bind_apply]
  simp only [latchSym, modify_apply]
  rw [if_neg (by omega), bind_apply, readLsb_ok (by exact hr)]
  simp only [modify_apply, fieldLsb_syms]

/-- R185, R187: the distance part of a COPY up to its last check. -/
theorem copyDistance_eq {s : State} {k : Nat} (hk : k ≤ 29) (hr : readable s (distExtra.getD k 0)) :
    copyDistance k s =
      let d := BitVec.ofNat 16 (mdistOf k (fieldLsb s (bitPos s.cur) (distExtra.getD k 0)))
      let s1 : State := { s with
        cur := advance s.cur (distExtra.getD k 0)
        syms := { s.syms with dsym := BitVec.ofNat 5 k, mdist := d } }
      if s.outPos < d.toNat then .error (.raised .invalidBlockData) s1
      else match copyBackReference s.syms.mlen.toNat d.toNat s1 with
        | .ok _ t => .ok () { t with loopAt := .symbols }
        | .error e t => .error e t := by
  unfold copyDistance
  rw [bind_apply]
  simp only [modify_apply]
  rw [if_neg (by omega), bind_apply, readLsb_ok (by exact hr)]
  simp only [bind_apply, modify_apply, get_apply, ite_apply_state, raise_apply, fieldLsb_syms]
  split
  · rfl
  · cases copyBackReference _ _ _ <;> rfl

/-- R159: the code-length lengths whose fields IN holds, for a list of symbols without repetition. -/
theorem readClLengths_ok (order : List Nat) (hnd : order.Nodup) (hlt : ∀ p ∈ order, p < 19) (n : Nat) (s : State)
    (hr : readable s (3 * min n order.length)) :
    ∃ v, readClLengths order n s = .ok () { s with cur := advance s.cur (3 * min n order.length), cl := { s.cl with lens := v } } ∧
     (∀ j, j < order.length → tabGet v (order.getD j 0) 0 = BitVec.ofNat 3 (if j < n then fieldLsb s (bitPos s.cur + 3 * j) 3 else 0)) ∧
     (∀ k, k ∉ order → tabGet v k 0 = tabGet s.cl.lens k 0) := by
  induction order generalizing n s with
  | nil => exact ⟨s.cl.lens, by simp [readClLengths], fun j h => by simp at h, fun _ _ => rfl⟩
  | cons p order ih =>
    rw [List.nodup_cons] at hnd
    cases n with
    | zero =>
      obtain ⟨v, h1, h2, h3⟩ := ih hnd.2 (fun q hq => hlt q (by simp [hq])) 0
        { s with cl := { s.cl with lens := tabSet s.cl.lens p 0 } } (by rw [Nat.zero_min]; exact readable_zero (by exact hr.1))
      refine ⟨v, ?_, ?_, ?_⟩
      · simp only [readClLengths, bind_apply, if_true]
        rw [readLsb_ok (by simpa using hr)]
        simp only [fieldLsb, advance_zero, modify_apply]
        simpa using h1
      · intro j hj
        cases j with
        | zero =>
          have := h3 p hnd.1
          simp only [List.getD_cons_zero, this, tabGet_tabSet]
          simp [hlt p (by simp)]
        | succ j =>
          have := h2 j (by simpa using hj)
          simpa using this
      · intro k hk
        simp only [List.mem_cons, not_or] at hk
        rw [h3 k hk.2, tabGet_tabSet, if_neg (by omega)]
    | succ n =>
      have e : 3 * min (n + 1) (order.length + 1) = 3 + 3 * min n order.length := by omega
      rw [List.length_cons, e] at hr
      have hr2 := readable_advance hr
      let s1 : State := { s with
        cur := advance s.cur 3
        cl := { s.cl with lens := tabSet s.cl.lens p (BitVec.ofNat 3 (fieldLsb s (bitPos s.cur) 3)) } }
      have hf : ∀ k, fieldLsb s1 k 3 = fieldLsb s k 3 := fun k => fieldLsb_congr (s := s) (t := s1) rfl k 3
      obtain ⟨v, h1, h2, h3⟩ := ih hnd.2 (fun q hq => hlt q (by simp [hq])) n s1 hr2
      refine ⟨v, ?_, ?_, ?_⟩
      · simp only [readClLengths, bind_apply]
        rw [if_neg (by omega), readLsb_ok (readable_of_le hr (by omega))]
        simp only [modify_apply, Nat.add_sub_cancel]
        rw [h1, List.length_cons, e, ← advance_advance]
      · intro j hj
        cases j with
        | zero =>
          have := h3 p hnd.1
          simp only [List.getD_cons_zero, this]
          show tabGet (tabSet _ _ _) _ _ = _
          rw [tabGet_tabSet, if_pos ⟨rfl, hlt p (by simp)⟩]
          simp
        | succ j =>
          have := h2 j (by simpa using hj)
          simp only [List.getD_cons_succ, this]
          have e2 : bitPos s1.cur + 3 * j = bitPos s.cur + 3 * (j + 1) := by
            show bitPos (advance s.cur 3) + _ = _; rw [bitPos_advance]; omega
          rw [e2, hf]
          simp only [Nat.add_lt_add_iff_right]
      · intro k hk
        simp only [List.mem_cons, not_or] at hk
        rw [h3 k hk.2]
        show tabGet (tabSet _ _ _) _ _ = _
        rw [tabGet_tabSet, if_neg (by omega)]

/-- R163 to R165: a run within the sequence. -/
theorem putLengths_ok (c : BitVec 4) (r : Nat) {s : State} (h : s.seq.lsI.toNat + r ≤ 320) :
    ∃ v : Vector (BitVec 4) 320,
      putLengths c r s = .ok () { s with seq := { lenSeq := v, lsI := BitVec.ofNat 9 (s.seq.lsI.toNat + r) } } ∧
      ∀ k, tabGet v k 0 = if s.seq.lsI.toNat ≤ k ∧ k < s.seq.lsI.toNat + r then c else tabGet s.seq.lenSeq k 0 := by
  induction r generalizing s with
  | zero =>
    refine ⟨s.seq.lenSeq, by simp [putLengths], fun k => ?_⟩
    rw [if_neg (by omega)]
  | succ r ih =>
    have h1 : (s.seq.lsI + 1#9).toNat = s.seq.lsI.toNat + 1 := by
      rw [BitVec.toNat_add]; simp; omega
    obtain ⟨v, hv, hk⟩ := ih (s := { s with seq := { lenSeq := tabSet s.seq.lenSeq s.seq.lsI.toNat c, lsI := s.seq.lsI + 1#9 } })
      (by simp only [h1]; omega)
    refine ⟨v, ?_, fun k => ?_⟩
    · simp only [putLengths, putLength, bind_apply, modify_apply]
      rw [hv]
      simp only [h1, Nat.add_assoc, Nat.add_comm 1 r]
    · rw [hk, tabGet_tabSet]
      simp only [h1]
      by_cases e : k = s.seq.lsI.toNat
      · rw [if_neg (by omega), if_pos (by omega), if_pos (by omega)]
      · rw [if_neg (c := k = s.seq.lsI.toNat ∧ _) (by omega)]
        by_cases e2 : s.seq.lsI.toNat + 1 ≤ k ∧ k < s.seq.lsI.toNat + 1 + r
        · rw [if_pos e2, if_pos (by omega)]
        · rw [if_neg e2, if_neg (by omega)]

end Sys2Proof.Machine
end

