-- ==== Sys2Proof/Laws/Moves.lean ====
section
/-! SUPPORT. Said once: everything a step of the engine can do to what lies outside its session registers. A step is a chain of moves,
and a move changes session registers only, or reads a bit of IN, or goes on to the next byte, or puts one byte in the sink. Every
whole-machine rule about the cursor and the output is an induction over the chain. -/

namespace Sys2Proof.Machine

/-- The two states differ in session registers and in BUSY, DONE and ERR_KIND only. -/
structure SameOuter (s t : State) : Prop where
  cfg : t.cfg = s.cfg
  regs : t.regs = s.regs
  cur : t.cur = s.cur
  outPos : t.outPos = s.outPos
  inBuf : t.inBuf = s.inBuf
  outBuf : t.outBuf = s.outBuf
  hostQ : t.hostQ = s.hostQ
  hostRd : t.hostRd = s.hostRd
  truncated : t.status.truncated = s.status.truncated

/-- One move of the engine. -/
inductive Move : State → State → Prop where
  | session {s t : State} (h : SameOuter s t) : Move s t
  | bit {s : State} (h : s.cur.byteOff < s.regs.inLen) : Move s { s with cur := advance s.cur 1 }
  | byte {s : State} (h : s.cur.byteOff < s.regs.inLen ∨ s.cur.bitOff ≠ 0#3) (hw : s.cur.byteOff + 1 < 2 ^ s.cfg.addrW) :
      Move s { s with cur := { byteOff := s.cur.byteOff + 1, bitOff := 0#3 } }
  | put {s : State} (v : Byte) (hw : s.outPos + 1 < 2 ^ s.cfg.addrW) : Move s (afterSink v s)

/-- A chain of moves. -/
abbrev Moves : State → State → Prop := Relation.ReflTransGen Move

theorem Moves.of_same {s t : State} (h : SameOuter s t) : Moves s t := Relation.ReflTransGen.single (.session h)

/-- Wherever the pseudocode ends or stops, it got there by moves. -/
def MovesAt {α : Type} (m : M α) (s : State) : Prop :=
  match m s with
  | .ok _ t => Moves s t
  | .error _ t => Moves s t

/-- The pseudocode moves from every state. -/
def Moving {α : Type} (m : M α) : Prop := ∀ s, MovesAt m s

theorem MovesAt.bind {α β : Type} {m : M α} {f : α → M β} {s : State} (hm : MovesAt m s)
    (hf : ∀ a t, m s = .ok a t → MovesAt (f a) t) : MovesAt (m >>= f) s := by
  unfold MovesAt at *
  simp only [bind_apply]
  cases h : m s with
  | error e t => rw [h] at hm; exact hm
  | ok a t =>
    rw [h] at hm
    have := hf a t h
    revert this
    dsimp only
    cases f a t <;> exact fun h2 => Relation.ReflTransGen.trans hm h2

theorem Moving.bind {α β : Type} {m : M α} {f : α → M β} (hm : Moving m) (hf : ∀ a, Moving (f a)) : Moving (m >>= f) :=
  fun s => MovesAt.bind (hm s) fun a t _ => hf a t

theorem Moving.pure {α : Type} (a : α) : Moving (pure a : M α) := fun _ => Relation.ReflTransGen.refl

theorem Moving.throw {α : Type} (e : Stop) : Moving (throw e : M α) := fun _ => Relation.ReflTransGen.refl

theorem Moving.raise {α : Type} (e : ErrKind) : Moving (raise e : M α) := fun _ => Relation.ReflTransGen.refl

theorem Moving.get : Moving (get : M State) := fun _ => Relation.ReflTransGen.refl

theorem Moving.ite {α : Type} {p : Prop} [Decidable p] {m n : M α} (hm : Moving m) (hn : Moving n) : Moving (if p then m else n) := by
  split
  · exact hm
  · exact hn

/-- An update of session registers. -/
theorem Moving.modify {f : State → State} (h : ∀ s, SameOuter s (f s)) : Moving (modify f : M PUnit) := fun s => Moves.of_same (h s)

/-- Reading the state first. -/
theorem MovesAt.of_get {α : Type} {f : State → M α} {s : State} (h : MovesAt (f s) s) : MovesAt (get >>= f) s := h

theorem MovesAt.ite {α : Type} {p : Prop} [Decidable p] {m n : M α} {s : State} (hm : p → MovesAt m s) (hn : ¬p → MovesAt n s) :
    MovesAt (if p then m else n) s := by
  split
  · exact hm ‹_›
  · exact hn ‹_›

theorem MovesAt.set {s t : State} (h : SameOuter s t) : MovesAt (set t : M PUnit) s := Moves.of_same h

/-! ## The shared operations -/

theorem moving_readBit : Moving readBit := by
  intro s
  unfold MovesAt
  cases h : readBit s with
  | ok b t =>
    obtain ⟨hl, -, rfl⟩ := readBit_inv h
    exact Relation.ReflTransGen.single (.bit hl)
  | error e t =>
    obtain ⟨rfl, -⟩ := readBit_stop h
    exact Relation.ReflTransGen.refl

theorem moving_readLsb (n : Nat) : Moving (readLsb n) := by
  induction n with
  | zero => exact .pure 0
  | succ n ih => exact .bind moving_readBit fun b => .bind ih fun v => .pure _

theorem moving_readMsbFrom (n v : Nat) : Moving (readMsbFrom n v) := by
  induction n generalizing v with
  | zero => exact .pure v
  | succ n ih => exact .bind moving_readBit fun b => ih _

theorem moving_readMsb (n : Nat) : Moving (readMsb n) := moving_readMsbFrom n 0

theorem movesAt_advanceByte {s : State} (h : s.cur.byteOff < s.regs.inLen ∨ s.cur.bitOff ≠ 0#3) : MovesAt advanceByte s := by
  unfold MovesAt
  by_cases hw : 2 ^ s.cfg.addrW ≤ s.cur.byteOff + 1
  · rw [advanceByte_fault hw]
  · rw [advanceByte_ok (by omega)]; exact Relation.ReflTransGen.single (.byte h (by omega))

theorem moving_alignToByte : Moving alignToByte := fun _ =>
  .of_get (.ite (fun h => movesAt_advanceByte (.inr h)) fun _ => Moving.pure () _)

theorem moving_readByte : Moving readByte := fun _ =>
  .of_get (.ite (fun _ => Moving.raise _ _) fun h => .bind (movesAt_advanceByte (.inl (by omega))) fun _ _ _ => Moving.pure _ _)

theorem moving_readLe16 : Moving readLe16 := .bind moving_readByte fun _ => .bind moving_readByte fun _ => .pure _

theorem moving_sinkWrite (v : Byte) : Moving (sinkWrite v) := by
  intro s
  unfold MovesAt
  by_cases hw : 2 ^ s.cfg.addrW ≤ s.outPos + 1
  · rw [sinkWrite_fault v hw]
  · rw [sinkWrite_ok v (by omega)]; exact Relation.ReflTransGen.single (.put v (by omega))

theorem moving_setCopyLeft (n : Nat) : Moving (setCopyLeft n) := .modify fun _ => ⟨rfl, rfl, rfl, rfl, rfl, rfl, rfl, rfl, rfl⟩

theorem moving_copyBytes (dist n : Nat) : Moving (copyBytes dist n) := by
  induction n with
  | zero => exact .pure ()
  | succ n ih => exact .bind .get fun s => .bind (moving_sinkWrite _) fun _ => .bind (moving_setCopyLeft n) fun _ => ih

theorem moving_copyBackReference (len dist : Nat) : Moving (copyBackReference len dist) :=
  .bind (moving_setCopyLeft len) fun _ => moving_copyBytes dist len

theorem moving_storedBytes (n : Nat) : Moving (storedBytes n) := by
  induction n with
  | zero => exact .pure ()
  | succ n ih =>
    exact .bind moving_readByte fun b => .bind (moving_sinkWrite b) fun _ => .bind (moving_setCopyLeft n) fun _ => ih

theorem moving_walkTrie (t : List Slot) (fuel k : Nat) : Moving (walkTrie t fuel k) := by
  induction fuel generalizing k with
  | zero => exact .throw _
  | succ fuel ih =>
    refine .bind (.modify fun _ => ⟨rfl, rfl, rfl, rfl, rfl, rfl, rfl, rfl, rfl⟩) fun _ => .bind (moving_readMsb 1) fun bit => ?_
    split
    · exact .raise _
    · exact .pure _
    · exact ih _

theorem moving_decodeSymbol (t : List Slot) : Moving (decodeSymbol t) := .bind .get fun _ => moving_walkTrie t _ 0

theorem sameOuter_endOfBlock (s : State) :
    SameOuter s (if s.hdr.bfinal = 1#1 then completeSuccess s else { s with blk := .readBlockHeader }) := by
  split <;> exact ⟨rfl, rfl, rfl, rfl, rfl, rfl, rfl, rfl, rfl⟩

theorem moving_endOfBlock : Moving endOfBlock := .modify sameOuter_endOfBlock

theorem moving_latchSym (sym : Nat) : Moving (latchSym sym) := .modify fun _ => ⟨rfl, rfl, rfl, rfl, rfl, rfl, rfl, rfl, rfl⟩

theorem moving_copyLength (j : Nat) : Moving (copyLength j) := by
  unfold copyLength
  refine .bind (moving_latchSym _) fun _ => ?_
  refine .ite (.raise _) (.bind (moving_readLsb _) fun _ => ?_)
  exact .modify fun _ => ⟨rfl, rfl, rfl, rfl, rfl, rfl, rfl, rfl, rfl⟩

theorem moving_copyDistance (dsym : Nat) : Moving (copyDistance dsym) := by
  unfold copyDistance
  refine .bind (.modify fun _ => ⟨rfl, rfl, rfl, rfl, rfl, rfl, rfl, rfl, rfl⟩) fun _ => ?_
  refine .ite (.raise _) (.bind (moving_readLsb _) fun _ => ?_)
  refine .bind (.modify fun _ => ⟨rfl, rfl, rfl, rfl, rfl, rfl, rfl, rfl, rfl⟩) fun _ => .bind .get fun _ => ?_
  refine .ite (.raise _) (.bind (moving_copyBackReference _ _) fun _ => ?_)
  exact .modify fun _ => ⟨rfl, rfl, rfl, rfl, rfl, rfl, rfl, rfl, rfl⟩

theorem moving_latchHeader (b : Bool) (t : Nat) : Moving (latchHeader b t) := .modify fun _ => ⟨rfl, rfl, rfl, rfl, rfl, rfl, rfl, rfl, rfl⟩

theorem moving_readHeader : Moving readHeader :=
  .bind (moving_readMsb 1) fun _ => .bind (.modify fun _ => ⟨rfl, rfl, rfl, rfl, rfl, rfl, rfl, rfl, rfl⟩) fun _ =>
    .bind (moving_readMsb 1) fun _ => .bind (moving_readMsb 1) fun _ => .pure _

theorem moving_putLength (c : BitVec 4) : Moving (putLength c) := .modify fun _ => ⟨rfl, rfl, rfl, rfl, rfl, rfl, rfl, rfl, rfl⟩

theorem moving_putLengths (c : BitVec 4) (n : Nat) : Moving (putLengths c n) := by
  induction n with
  | zero => exact .pure ()
  | succ n ih => exact .bind (moving_putLength c) fun _ => ih

theorem moving_putRun (c : BitVec 4) (r : Nat) : Moving (putRun c r) := .bind .get fun _ => .ite (.raise _) (moving_putLengths c r)

theorem moving_readClLengths (order : List Nat) (n : Nat) : Moving (readClLengths order n) := by
  induction order generalizing n with
  | nil => exact .pure ()
  | cons p order ih =>
    exact .bind (moving_readLsb _) fun _ => .bind (.modify fun _ => ⟨rfl, rfl, rfl, rfl, rfl, rfl, rfl, rfl, rfl⟩) fun _ => ih _

theorem moving_buildClTable : Moving buildClTable := fun _ =>
  .of_get (.bind (.set ⟨rfl, rfl, rfl, rfl, rfl, rfl, rfl, rfl, rfl⟩) fun _ _ _ => Moving.ite (.pure ()) (.raise _) _)

theorem moving_startSequence : Moving startSequence := .modify fun _ => ⟨rfl, rfl, rfl, rfl, rfl, rfl, rfl, rfl, rfl⟩

theorem moving_buildBlockTables : Moving buildBlockTables := by
  refine .bind (.modify fun _ => ⟨rfl, rfl, rfl, rfl, rfl, rfl, rfl, rfl, rfl⟩) fun _ s => .of_get ?_
  refine .bind (.set ⟨rfl, rfl, rfl, rfl, rfl, rfl, rfl, rfl, rfl⟩) fun _ s _ => .ite (fun _ => .of_get ?_) fun _ => Moving.raise _ _
  refine .bind (.set ⟨rfl, rfl, rfl, rfl, rfl, rfl, rfl, rfl, rfl⟩) fun _ s _ => .ite (fun _ => ?_) fun _ => Moving.raise _ _
  exact Moves.of_same ⟨rfl, rfl, rfl, rfl, rfl, rfl, rfl, rfl, rfl⟩

/-! ## The elements -/

theorem sameOuter_enterError (e : ErrKind) (s : State) : SameOuter s (enterError e s) := ⟨rfl, rfl, rfl, rfl, rfl, rfl, rfl, rfl, rfl⟩

/-- An element written from moving operations gives a next state by moves. -/
theorem Moving.finish {m : M Unit} {s t : State} (h : Machine.finish m s = .next t) (hm : Moving m) : Moves s t := by
  have := hm s
  unfold MovesAt at this
  rcases finish_next h with hk | ⟨e, s', hk, rfl⟩
  · rw [hk] at this; exact this
  · rw [hk] at this; exact this.tail (.session (sameOuter_enterError e s'))

/-- R166: building the tables of a dynamic block reads nothing of the stream. -/
theorem buildBlockTables_cur {s t : State} (h : finish buildBlockTables s = .next t) : t.cur = s.cur := by
  have : ∀ s, match buildBlockTables s with | .ok _ t => t.cur = s.cur | .error _ t => t.cur = s.cur := by
    intro s
    simp only [buildBlockTables, splitSequence, bind_apply, modify_apply, get_apply, set_apply, ite_apply_state]
    split
    · rename_i h; revert h; split
      · split
        · intro h; cases h; rfl
        · intro h; cases h
      · intro h; cases h
    · rename_i h; revert h; split
      · split
        · intro h; cases h
        · intro h; cases h; rfl
      · intro h; cases h; rfl
  have hk := this s
  rcases finish_next h with hm | ⟨e, s', hm, rfl⟩ <;> rw [hm] at hk <;> exact hk

theorem moving_storedBody : Moving storedBody :=
  .bind .get fun _ => .ite (.raise _) (.bind (moving_setCopyLeft _) fun _ => moving_storedBytes _)

theorem moves_execStored {b : Bool} {s t : State} (h : execStored b s = .next t) : Moves s t :=
  Moving.finish h <|
  .bind (moving_latchHeader b 0) fun _ => .bind (.modify fun _ => ⟨rfl, rfl, rfl, rfl, rfl, rfl, rfl, rfl, rfl⟩) fun _ =>
    .bind moving_alignToByte fun _ => .bind moving_readLe16 fun _ =>
      .bind (.modify fun _ => ⟨rfl, rfl, rfl, rfl, rfl, rfl, rfl, rfl, rfl⟩) fun _ => .bind moving_readLe16 fun _ =>
        .bind (.modify fun _ => ⟨rfl, rfl, rfl, rfl, rfl, rfl, rfl, rfl, rfl⟩) fun _ => .bind moving_storedBody fun _ => moving_endOfBlock

theorem moves_execFixed {b : Bool} {s t : State} (h : execFixed b s = .next t) : Moves s t :=
  Moving.finish h <|
  .bind (moving_latchHeader b 1) fun _ => .modify fun _ => ⟨rfl, rfl, rfl, rfl, rfl, rfl, rfl, rfl, rfl⟩

theorem moves_execDynamic {b : Bool} {s t : State} (h : execDynamic b s = .next t) : Moves s t :=
  Moving.finish h <|
  .bind (moving_latchHeader b 2) fun _ => .bind (.modify fun _ => ⟨rfl, rfl, rfl, rfl, rfl, rfl, rfl, rfl, rfl⟩) fun _ =>
    .bind (moving_readLsb 5) fun _ => .bind (.modify fun _ => ⟨rfl, rfl, rfl, rfl, rfl, rfl, rfl, rfl, rfl⟩) fun _ =>
      .bind (moving_readLsb 5) fun _ => .bind (.modify fun _ => ⟨rfl, rfl, rfl, rfl, rfl, rfl, rfl, rfl, rfl⟩) fun _ =>
        .bind (moving_readLsb 4) fun _ => .bind (.modify fun _ => ⟨rfl, rfl, rfl, rfl, rfl, rfl, rfl, rfl, rfl⟩) fun _ =>
          .bind (moving_readClLengths _ _) fun _ => .bind moving_buildClTable fun _ => moving_startSequence

theorem moves_execReserved {b : Bool} {s t : State} (h : execReserved b s = .next t) : Moves s t :=
  Moving.finish h <|
  .bind (moving_latchHeader b 3) fun _ => .raise _

theorem moves_execLit {sym : BitVec 9} {s t : State} (h : execLit sym s = .next t) : Moves s t :=
  Moving.finish h <|
  .bind (.modify fun _ => ⟨rfl, rfl, rfl, rfl, rfl, rfl, rfl, rfl, rfl⟩) fun _ => moving_sinkWrite _

theorem moves_execEob {s t : State} (h : execEob s = .next t) : Moves s t :=
  Moving.finish h <|
  .bind (.modify fun _ => ⟨rfl, rfl, rfl, rfl, rfl, rfl, rfl, rfl, rfl⟩) fun _ => moving_endOfBlock

theorem moves_copyLength {j : Nat} {s t : State} (h : finish (copyLength j) s = .next t) : Moves s t :=
  Moving.finish h (moving_copyLength j)

theorem moves_copyDistance {dsym : Nat} {s t : State} (h : finish (copyDistance dsym) s = .next t) : Moves s t :=
  Moving.finish h (moving_copyDistance dsym)

theorem moves_execClLit {c : BitVec 5} {s t : State} (h : execClLit c s = .next t) : Moves s t := Moving.finish h (moving_putLength _)

theorem moves_execRepPrev {s t : State} (h : execRepPrev s = .next t) : Moves s t :=
  Moving.finish h <|
  .bind (moving_readLsb 2) fun _ => .bind .get fun _ => .ite (.raise _) (moving_putRun _ _)

theorem moves_execRepZero {s t : State} (h : execRepZero s = .next t) : Moves s t :=
  Moving.finish h <|
  .bind (moving_readLsb 3) fun _ => moving_putRun _ _

theorem moves_execRepZeroLong {s t : State} (h : execRepZeroLong s = .next t) : Moves s t :=
  Moving.finish h <|
  .bind (moving_readLsb 7) fun _ => moving_putRun _ _

/-- R200, R203: everything DECODE can do to give a next state. -/
theorem execDecode_next {s t : State} (h : execDecode s = .next t) :
    t = startActions s ∧ s.status.busy = false ∧ launchWidthOk s = true ∧ buffersOverlap s = false := by
  unfold execDecode at h
  rcases finish_next h with hk | ⟨e, s', hk, -⟩ <;>
    simp only [bind_apply, get_apply, ite_apply_state, throw_apply, set_apply] at hk <;>
    split at hk <;> (try split at hk) <;> (try split at hk) <;> simp_all

/-- The next state of every element of the stream is reached by moves; DECODE is the start actions (execDecode_next). -/
theorem moves_exec {i : Instr} {s t : State} (hi : i ≠ .decode) (h : exec i s = .next t) : Moves s t :=
  match i, hi, h with
  | .stored _, _, h => moves_execStored h
  | .fixed _, _, h => moves_execFixed h
  | .dynamic _, _, h => moves_execDynamic h
  | .reserved _, _, h => moves_execReserved h
  | .lit _, _, h => moves_execLit h
  | .eob, _, h => moves_execEob h
  | .len257, _, h => moves_copyLength (j := 0) h
  | .len258, _, h => moves_copyLength (j := 1) h
  | .len259, _, h => moves_copyLength (j := 2) h
  | .len260, _, h => moves_copyLength (j := 3) h
  | .len261, _, h => moves_copyLength (j := 4) h
  | .len262, _, h => moves_copyLength (j := 5) h
  | .len263, _, h => moves_copyLength (j := 6) h
  | .len264, _, h => moves_copyLength (j := 7) h
  | .len265, _, h => moves_copyLength (j := 8) h
  | .len266, _, h => moves_copyLength (j := 9) h
  | .len267, _, h => moves_copyLength (j := 10) h
  | .len268, _, h => moves_copyLength (j := 11) h
  | .len269, _, h => moves_copyLength (j := 12) h
  | .len270, _, h => moves_copyLength (j := 13) h
  | .len271, _, h => moves_copyLength (j := 14) h
  | .len272, _, h => moves_copyLength (j := 15) h
  | .len273, _, h => moves_copyLength (j := 16) h
  | .len274, _, h => moves_copyLength (j := 17) h
  | .len275, _, h => moves_copyLength (j := 18) h
  | .len276, _, h => moves_copyLength (j := 19) h
  | .len277, _, h => moves_copyLength (j := 20) h
  | .len278, _, h => moves_copyLength (j := 21) h
  | .len279, _, h => moves_copyLength (j := 22) h
  | .len280, _, h => moves_copyLength (j := 23) h
  | .len281, _, h => moves_copyLength (j := 24) h
  | .len282, _, h => moves_copyLength (j := 25) h
  | .len283, _, h => moves_copyLength (j := 26) h
  | .len284, _, h => moves_copyLength (j := 27) h
  | .len285, _, h => moves_copyLength (j := 28) h
  | .invalid286, _, h => moves_copyLength (j := 29) h
  | .invalid287, _, h => moves_copyLength (j := 30) h
  | .dist0, _, h => moves_copyDistance (dsym := 0) h
  | .dist1, _, h => moves_copyDistance (dsym := 1) h
  | .dist2, _, h => moves_copyDistance (dsym := 2) h
  | .dist3, _, h => moves_copyDistance (dsym := 3) h
  | .dist4, _, h => moves_copyDistance (dsym := 4) h
  | .dist5, _, h => moves_copyDistance (dsym := 5) h
  | .dist6, _, h => moves_copyDistance (dsym := 6) h
  | .dist7, _, h => moves_copyDistance (dsym := 7) h
  | .dist8, _, h => moves_copyDistance (dsym := 8) h
  | .dist9, _, h => moves_copyDistance (dsym := 9) h
  | .dist10, _, h => moves_copyDistance (dsym := 10) h
  | .dist11, _, h => moves_copyDistance (dsym := 11) h
  | .dist12, _, h => moves_copyDistance (dsym := 12) h
  | .dist13, _, h => moves_copyDistance (dsym := 13) h
  | .dist14, _, h => moves_copyDistance (dsym := 14) h
  | .dist15, _, h => moves_copyDistance (dsym := 15) h
  | .dist16, _, h => moves_copyDistance (dsym := 16) h
  | .dist17, _, h => moves_copyDistance (dsym := 17) h
  | .dist18, _, h => moves_copyDistance (dsym := 18) h
  | .dist19, _, h => moves_copyDistance (dsym := 19) h
  | .dist20, _, h => moves_copyDistance (dsym := 20) h
  | .dist21, _, h => moves_copyDistance (dsym := 21) h
  | .dist22, _, h => moves_copyDistance (dsym := 22) h
  | .dist23, _, h => moves_copyDistance (dsym := 23) h
  | .dist24, _, h => moves_copyDistance (dsym := 24) h
  | .dist25, _, h => moves_copyDistance (dsym := 25) h
  | .dist26, _, h => moves_copyDistance (dsym := 26) h
  | .dist27, _, h => moves_copyDistance (dsym := 27) h
  | .dist28, _, h => moves_copyDistance (dsym := 28) h
  | .dist29, _, h => moves_copyDistance (dsym := 29) h
  | .invalidD30, _, h => moves_copyDistance (dsym := 30) h
  | .invalidD31, _, h => moves_copyDistance (dsym := 31) h
  | .clLit _, _, h => moves_execClLit h
  | .repPrev, _, h => moves_execRepPrev h
  | .repZero, _, h => moves_execRepZero h
  | .repZeroLong, _, h => moves_execRepZeroLong h
  | .decode, hi, _ => absurd rfl hi

theorem moving_fetchValue (f : Format) : Moving (fetchValue f) := by
  refine .bind .get fun s => ?_
  cases f
  · exact moving_readHeader
  · exact moving_decodeSymbol _
  · exact moving_decodeSymbol _
  · exact moving_decodeSymbol _
  · exact .throw _

theorem moving_fetch : Moving fetch := by
  refine .bind .get fun s => ?_
  cases nextFormat s with
  | none => exact .throw _
  | some f =>
    refine .bind (moving_fetchValue f) fun v => ?_
    cases decode f v with
    | ok i => exact .pure i
    | error r => exact .throw _

/-- No stream format decodes to the host's command. -/
theorem decode_ne_decode {f : Format} (hf : f ≠ .hostCommand) {v : Nat} : decode f v ≠ .ok .decode := by
  have hl : Instr.decode ∉ litlenFrom256 := by decide
  have hd : Instr.decode ∉ distFrom0 := by decide
  intro h
  unfold decode at h
  split at h
  · cases h
  · cases f
    · simp only [Except.ok.injEq, decodeHeader] at h
      split at h <;> cases h
    · simp only [decodeLitlen] at h
      split at h
      · cases h
      · split at h
        · cases h; exact hl (List.mem_of_getElem? ‹_›)
        · cases h
    · simp only [decodeDist] at h
      split at h
      · cases h; exact hd (List.mem_of_getElem? ‹_›)
      · cases h
    · simp only [decodeCl] at h
      split at h <;> (try split at h) <;> (try split at h) <;> (try split at h) <;> cases h
    · exact hf rfl

theorem nextFormat_ne_host {s : State} {f : Format} (h : nextFormat s = some f) : f ≠ .hostCommand := by
  unfold nextFormat at h
  split at h <;> cases h <;> simp

/-- The engine never fetches the host's command. -/
theorem fetch_ne_decode {s s' : State} {i : Instr} (h : fetch s = .ok i s') : i ≠ .decode := by
  rintro rfl
  simp only [fetch, bind_apply, get_apply] at h
  cases hf : nextFormat s with
  | none => simp [hf] at h
  | some f =>
    simp only [hf, bind_apply] at h
    cases hv : fetchValue f s with
    | error e t => simp [hv] at h
    | ok v t =>
      simp only [hv] at h
      cases hd : decode f v with
      | error r => simp [hd] at h
      | ok i =>
        simp only [hd, pure_apply] at h
        cases h
        exact decode_ne_decode (nextFormat_ne_host hf) hd

/-- R150: every next state of the engine is reached by moves. -/
theorem moves_engineStep {s t : State} (h : engineStep s = .next t) : Moves s t := by
  unfold engineStep at h
  split at h
  · split at h
    · exact Moving.finish h moving_buildBlockTables
    · unfold runElement at h
      have hf := moving_fetch s
      unfold MovesAt at hf
      cases hk : fetch s with
      | ok i s' =>
        rw [hk] at h hf
        exact hf.trans (moves_exec (fetch_ne_decode hk) h)
      | error e s' =>
        rw [hk] at h hf
        cases e with
        | raised e => cases h; exact hf.tail (.session (sameOuter_enterError e s'))
        | fault f => cases h
        | refused r => cases h
  · cases h
    exact Relation.ReflTransGen.refl

end Sys2Proof.Machine
end

