-- ==== Sys2Proof/Laws/PerInstr.lean ====
section
/-! SUPPORT. Facts about every instruction as syntax, one lemma per constructor: its word fits the width of its format, and it
matches the match and mask of its row of spec/opcode_table.json. -/

namespace Sys2Proof.Laws

/-- A row of spec/opcode_table.json: the format, and the match and mask of the value. -/
structure Row where
  format : Format
  pattern : Nat
  mask : Nat
  deriving DecidableEq, Repr

/-- The opcode table, read from spec/opcode_table.json row by row. -/
def rowOf : Instr → Row
  | .stored _ => ⟨.blockHeader, 0x0, 0x6⟩
  | .fixed _ => ⟨.blockHeader, 0x2, 0x6⟩
  | .dynamic _ => ⟨.blockHeader, 0x4, 0x6⟩
  | .reserved _ => ⟨.blockHeader, 0x6, 0x6⟩
  | .lit _ => ⟨.litlenSymbol, 0x0, 0x100⟩
  | .eob => ⟨.litlenSymbol, 0x100, 0x1ff⟩
  | .len257 => ⟨.litlenSymbol, 0x101, 0x1ff⟩
  | .len258 => ⟨.litlenSymbol, 0x102, 0x1ff⟩
  | .len259 => ⟨.litlenSymbol, 0x103, 0x1ff⟩
  | .len260 => ⟨.litlenSymbol, 0x104, 0x1ff⟩
  | .len261 => ⟨.litlenSymbol, 0x105, 0x1ff⟩
  | .len262 => ⟨.litlenSymbol, 0x106, 0x1ff⟩
  | .len263 => ⟨.litlenSymbol, 0x107, 0x1ff⟩
  | .len264 => ⟨.litlenSymbol, 0x108, 0x1ff⟩
  | .len265 => ⟨.litlenSymbol, 0x109, 0x1ff⟩
  | .len266 => ⟨.litlenSymbol, 0x10a, 0x1ff⟩
  | .len267 => ⟨.litlenSymbol, 0x10b, 0x1ff⟩
  | .len268 => ⟨.litlenSymbol, 0x10c, 0x1ff⟩
  | .len269 => ⟨.litlenSymbol, 0x10d, 0x1ff⟩
  | .len270 => ⟨.litlenSymbol, 0x10e, 0x1ff⟩
  | .len271 => ⟨.litlenSymbol, 0x10f, 0x1ff⟩
  | .len272 => ⟨.litlenSymbol, 0x110, 0x1ff⟩
  | .len273 => ⟨.litlenSymbol, 0x111, 0x1ff⟩
  | .len274 => ⟨.litlenSymbol, 0x112, 0x1ff⟩
  | .len275 => ⟨.litlenSymbol, 0x113, 0x1ff⟩
  | .len276 => ⟨.litlenSymbol, 0x114, 0x1ff⟩
  | .len277 => ⟨.litlenSymbol, 0x115, 0x1ff⟩
  | .len278 => ⟨.litlenSymbol, 0x116, 0x1ff⟩
  | .len279 => ⟨.litlenSymbol, 0x117, 0x1ff⟩
  | .len280 => ⟨.litlenSymbol, 0x118, 0x1ff⟩
  | .len281 => ⟨.litlenSymbol, 0x119, 0x1ff⟩
  | .len282 => ⟨.litlenSymbol, 0x11a, 0x1ff⟩
  | .len283 => ⟨.litlenSymbol, 0x11b, 0x1ff⟩
  | .len284 => ⟨.litlenSymbol, 0x11c, 0x1ff⟩
  | .len285 => ⟨.litlenSymbol, 0x11d, 0x1ff⟩
  | .invalid286 => ⟨.litlenSymbol, 0x11e, 0x1ff⟩
  | .invalid287 => ⟨.litlenSymbol, 0x11f, 0x1ff⟩
  | .dist0 => ⟨.distSymbol, 0x0, 0x1f⟩
  | .dist1 => ⟨.distSymbol, 0x1, 0x1f⟩
  | .dist2 => ⟨.distSymbol, 0x2, 0x1f⟩
  | .dist3 => ⟨.distSymbol, 0x3, 0x1f⟩
  | .dist4 => ⟨.distSymbol, 0x4, 0x1f⟩
  | .dist5 => ⟨.distSymbol, 0x5, 0x1f⟩
  | .dist6 => ⟨.distSymbol, 0x6, 0x1f⟩
  | .dist7 => ⟨.distSymbol, 0x7, 0x1f⟩
  | .dist8 => ⟨.distSymbol, 0x8, 0x1f⟩
  | .dist9 => ⟨.distSymbol, 0x9, 0x1f⟩
  | .dist10 => ⟨.distSymbol, 0xa, 0x1f⟩
  | .dist11 => ⟨.distSymbol, 0xb, 0x1f⟩
  | .dist12 => ⟨.distSymbol, 0xc, 0x1f⟩
  | .dist13 => ⟨.distSymbol, 0xd, 0x1f⟩
  | .dist14 => ⟨.distSymbol, 0xe, 0x1f⟩
  | .dist15 => ⟨.distSymbol, 0xf, 0x1f⟩
  | .dist16 => ⟨.distSymbol, 0x10, 0x1f⟩
  | .dist17 => ⟨.distSymbol, 0x11, 0x1f⟩
  | .dist18 => ⟨.distSymbol, 0x12, 0x1f⟩
  | .dist19 => ⟨.distSymbol, 0x13, 0x1f⟩
  | .dist20 => ⟨.distSymbol, 0x14, 0x1f⟩
  | .dist21 => ⟨.distSymbol, 0x15, 0x1f⟩
  | .dist22 => ⟨.distSymbol, 0x16, 0x1f⟩
  | .dist23 => ⟨.distSymbol, 0x17, 0x1f⟩
  | .dist24 => ⟨.distSymbol, 0x18, 0x1f⟩
  | .dist25 => ⟨.distSymbol, 0x19, 0x1f⟩
  | .dist26 => ⟨.distSymbol, 0x1a, 0x1f⟩
  | .dist27 => ⟨.distSymbol, 0x1b, 0x1f⟩
  | .dist28 => ⟨.distSymbol, 0x1c, 0x1f⟩
  | .dist29 => ⟨.distSymbol, 0x1d, 0x1f⟩
  | .invalidD30 => ⟨.distSymbol, 0x1e, 0x1f⟩
  | .invalidD31 => ⟨.distSymbol, 0x1f, 0x1f⟩
  | .clLit _ => ⟨.clSymbol, 0x0, 0x10⟩
  | .repPrev => ⟨.clSymbol, 0x10, 0x1f⟩
  | .repZero => ⟨.clSymbol, 0x11, 0x1f⟩
  | .repZeroLong => ⟨.clSymbol, 0x12, 0x1f⟩
  | .decode => ⟨.hostCommand, 0x1, 0x1⟩

namespace FitsFormat

/-- The word of an instruction fits the width of its format. -/
def Statement (i : Instr) : Prop := (encode i).value < 2 ^ (encode i).format.width

theorem stored (bfinal : Bool) : Statement (.stored bfinal) := match bfinal with | false => Nat.le_of_ble_eq_true rfl | true => Nat.le_of_ble_eq_true rfl
theorem fixed (bfinal : Bool) : Statement (.fixed bfinal) := match bfinal with | false => Nat.le_of_ble_eq_true rfl | true => Nat.le_of_ble_eq_true rfl
theorem dynamic (bfinal : Bool) : Statement (.dynamic bfinal) := match bfinal with | false => Nat.le_of_ble_eq_true rfl | true => Nat.le_of_ble_eq_true rfl
theorem reserved (bfinal : Bool) : Statement (.reserved bfinal) := match bfinal with | false => Nat.le_of_ble_eq_true rfl | true => Nat.le_of_ble_eq_true rfl
theorem lit (sym : BitVec 9) : Statement (.lit sym) := sym.isLt
theorem eob : Statement .eob := Nat.le_of_ble_eq_true rfl
theorem len257 : Statement .len257 := Nat.le_of_ble_eq_true rfl
theorem len258 : Statement .len258 := Nat.le_of_ble_eq_true rfl
theorem len259 : Statement .len259 := Nat.le_of_ble_eq_true rfl
theorem len260 : Statement .len260 := Nat.le_of_ble_eq_true rfl
theorem len261 : Statement .len261 := Nat.le_of_ble_eq_true rfl
theorem len262 : Statement .len262 := Nat.le_of_ble_eq_true rfl
theorem len263 : Statement .len263 := Nat.le_of_ble_eq_true rfl
theorem len264 : Statement .len264 := Nat.le_of_ble_eq_true rfl
theorem len265 : Statement .len265 := Nat.le_of_ble_eq_true rfl
theorem len266 : Statement .len266 := Nat.le_of_ble_eq_true rfl
theorem len267 : Statement .len267 := Nat.le_of_ble_eq_true rfl
theorem len268 : Statement .len268 := Nat.le_of_ble_eq_true rfl
theorem len269 : Statement .len269 := Nat.le_of_ble_eq_true rfl
theorem len270 : Statement .len270 := Nat.le_of_ble_eq_true rfl
theorem len271 : Statement .len271 := Nat.le_of_ble_eq_true rfl
theorem len272 : Statement .len272 := Nat.le_of_ble_eq_true rfl
theorem len273 : Statement .len273 := Nat.le_of_ble_eq_true rfl
theorem len274 : Statement .len274 := Nat.le_of_ble_eq_true rfl
theorem len275 : Statement .len275 := Nat.le_of_ble_eq_true rfl
theorem len276 : Statement .len276 := Nat.le_of_ble_eq_true rfl
theorem len277 : Statement .len277 := Nat.le_of_ble_eq_true rfl
theorem len278 : Statement .len278 := Nat.le_of_ble_eq_true rfl
theorem len279 : Statement .len279 := Nat.le_of_ble_eq_true rfl
theorem len280 : Statement .len280 := Nat.le_of_ble_eq_true rfl
theorem len281 : Statement .len281 := Nat.le_of_ble_eq_true rfl
theorem len282 : Statement .len282 := Nat.le_of_ble_eq_true rfl
theorem len283 : Statement .len283 := Nat.le_of_ble_eq_true rfl
theorem len284 : Statement .len284 := Nat.le_of_ble_eq_true rfl
theorem len285 : Statement .len285 := Nat.le_of_ble_eq_true rfl
theorem invalid286 : Statement .invalid286 := Nat.le_of_ble_eq_true rfl
theorem invalid287 : Statement .invalid287 := Nat.le_of_ble_eq_true rfl
theorem dist0 : Statement .dist0 := Nat.le_of_ble_eq_true rfl
theorem dist1 : Statement .dist1 := Nat.le_of_ble_eq_true rfl
theorem dist2 : Statement .dist2 := Nat.le_of_ble_eq_true rfl
theorem dist3 : Statement .dist3 := Nat.le_of_ble_eq_true rfl
theorem dist4 : Statement .dist4 := Nat.le_of_ble_eq_true rfl
theorem dist5 : Statement .dist5 := Nat.le_of_ble_eq_true rfl
theorem dist6 : Statement .dist6 := Nat.le_of_ble_eq_true rfl
theorem dist7 : Statement .dist7 := Nat.le_of_ble_eq_true rfl
theorem dist8 : Statement .dist8 := Nat.le_of_ble_eq_true rfl
theorem dist9 : Statement .dist9 := Nat.le_of_ble_eq_true rfl
theorem dist10 : Statement .dist10 := Nat.le_of_ble_eq_true rfl
theorem dist11 : Statement .dist11 := Nat.le_of_ble_eq_true rfl
theorem dist12 : Statement .dist12 := Nat.le_of_ble_eq_true rfl
theorem dist13 : Statement .dist13 := Nat.le_of_ble_eq_true rfl
theorem dist14 : Statement .dist14 := Nat.le_of_ble_eq_true rfl
theorem dist15 : Statement .dist15 := Nat.le_of_ble_eq_true rfl
theorem dist16 : Statement .dist16 := Nat.le_of_ble_eq_true rfl
theorem dist17 : Statement .dist17 := Nat.le_of_ble_eq_true rfl
theorem dist18 : Statement .dist18 := Nat.le_of_ble_eq_true rfl
theorem dist19 : Statement .dist19 := Nat.le_of_ble_eq_true rfl
theorem dist20 : Statement .dist20 := Nat.le_of_ble_eq_true rfl
theorem dist21 : Statement .dist21 := Nat.le_of_ble_eq_true rfl
theorem dist22 : Statement .dist22 := Nat.le_of_ble_eq_true rfl
theorem dist23 : Statement .dist23 := Nat.le_of_ble_eq_true rfl
theorem dist24 : Statement .dist24 := Nat.le_of_ble_eq_true rfl
theorem dist25 : Statement .dist25 := Nat.le_of_ble_eq_true rfl
theorem dist26 : Statement .dist26 := Nat.le_of_ble_eq_true rfl
theorem dist27 : Statement .dist27 := Nat.le_of_ble_eq_true rfl
theorem dist28 : Statement .dist28 := Nat.le_of_ble_eq_true rfl
theorem dist29 : Statement .dist29 := Nat.le_of_ble_eq_true rfl
theorem invalidD30 : Statement .invalidD30 := Nat.le_of_ble_eq_true rfl
theorem invalidD31 : Statement .invalidD31 := Nat.le_of_ble_eq_true rfl
theorem clLit (c : BitVec 5) : Statement (.clLit c) := c.isLt
theorem repPrev : Statement .repPrev := Nat.le_of_ble_eq_true rfl
theorem repZero : Statement .repZero := Nat.le_of_ble_eq_true rfl
theorem repZeroLong : Statement .repZeroLong := Nat.le_of_ble_eq_true rfl
theorem decode : Statement .decode := Nat.le_of_ble_eq_true rfl

end FitsFormat

namespace MatchesRow

/-- A well-formed instruction's word is of its row's format and agrees with the row's match under its mask. -/
def Statement (i : Instr) : Prop :=
  i.WellFormed → (encode i).format = (rowOf i).format ∧ (encode i).value &&& (rowOf i).mask = (rowOf i).pattern

theorem stored (bfinal : Bool) : Statement (.stored bfinal) := match bfinal with | false => fun _ => ⟨rfl, rfl⟩ | true => fun _ => ⟨rfl, rfl⟩
theorem fixed (bfinal : Bool) : Statement (.fixed bfinal) := match bfinal with | false => fun _ => ⟨rfl, rfl⟩ | true => fun _ => ⟨rfl, rfl⟩
theorem dynamic (bfinal : Bool) : Statement (.dynamic bfinal) := match bfinal with | false => fun _ => ⟨rfl, rfl⟩ | true => fun _ => ⟨rfl, rfl⟩
theorem reserved (bfinal : Bool) : Statement (.reserved bfinal) := match bfinal with | false => fun _ => ⟨rfl, rfl⟩ | true => fun _ => ⟨rfl, rfl⟩
theorem lit (sym : BitVec 9) : Statement (.lit sym) := by
  revert sym; unfold Statement; decide
theorem eob : Statement .eob := fun _ => ⟨rfl, rfl⟩
theorem len257 : Statement .len257 := fun _ => ⟨rfl, rfl⟩
theorem len258 : Statement .len258 := fun _ => ⟨rfl, rfl⟩
theorem len259 : Statement .len259 := fun _ => ⟨rfl, rfl⟩
theorem len260 : Statement .len260 := fun _ => ⟨rfl, rfl⟩
theorem len261 : Statement .len261 := fun _ => ⟨rfl, rfl⟩
theorem len262 : Statement .len262 := fun _ => ⟨rfl, rfl⟩
theorem len263 : Statement .len263 := fun _ => ⟨rfl, rfl⟩
theorem len264 : Statement .len264 := fun _ => ⟨rfl, rfl⟩
theorem len265 : Statement .len265 := fun _ => ⟨rfl, rfl⟩
theorem len266 : Statement .len266 := fun _ => ⟨rfl, rfl⟩
theorem len267 : Statement .len267 := fun _ => ⟨rfl, rfl⟩
theorem len268 : Statement .len268 := fun _ => ⟨rfl, rfl⟩
theorem len269 : Statement .len269 := fun _ => ⟨rfl, rfl⟩
theorem len270 : Statement .len270 := fun _ => ⟨rfl, rfl⟩
theorem len271 : Statement .len271 := fun _ => ⟨rfl, rfl⟩
theorem len272 : Statement .len272 := fun _ => ⟨rfl, rfl⟩
theorem len273 : Statement .len273 := fun _ => ⟨rfl, rfl⟩
theorem len274 : Statement .len274 := fun _ => ⟨rfl, rfl⟩
theorem len275 : Statement .len275 := fun _ => ⟨rfl, rfl⟩
theorem len276 : Statement .len276 := fun _ => ⟨rfl, rfl⟩
theorem len277 : Statement .len277 := fun _ => ⟨rfl, rfl⟩
theorem len278 : Statement .len278 := fun _ => ⟨rfl, rfl⟩
theorem len279 : Statement .len279 := fun _ => ⟨rfl, rfl⟩
theorem len280 : Statement .len280 := fun _ => ⟨rfl, rfl⟩
theorem len281 : Statement .len281 := fun _ => ⟨rfl, rfl⟩
theorem len282 : Statement .len282 := fun _ => ⟨rfl, rfl⟩
theorem len283 : Statement .len283 := fun _ => ⟨rfl, rfl⟩
theorem len284 : Statement .len284 := fun _ => ⟨rfl, rfl⟩
theorem len285 : Statement .len285 := fun _ => ⟨rfl, rfl⟩
theorem invalid286 : Statement .invalid286 := fun _ => ⟨rfl, rfl⟩
theorem invalid287 : Statement .invalid287 := fun _ => ⟨rfl, rfl⟩
theorem dist0 : Statement .dist0 := fun _ => ⟨rfl, rfl⟩
theorem dist1 : Statement .dist1 := fun _ => ⟨rfl, rfl⟩
theorem dist2 : Statement .dist2 := fun _ => ⟨rfl, rfl⟩
theorem dist3 : Statement .dist3 := fun _ => ⟨rfl, rfl⟩
theorem dist4 : Statement .dist4 := fun _ => ⟨rfl, rfl⟩
theorem dist5 : Statement .dist5 := fun _ => ⟨rfl, rfl⟩
theorem dist6 : Statement .dist6 := fun _ => ⟨rfl, rfl⟩
theorem dist7 : Statement .dist7 := fun _ => ⟨rfl, rfl⟩
theorem dist8 : Statement .dist8 := fun _ => ⟨rfl, rfl⟩
theorem dist9 : Statement .dist9 := fun _ => ⟨rfl, rfl⟩
theorem dist10 : Statement .dist10 := fun _ => ⟨rfl, rfl⟩
theorem dist11 : Statement .dist11 := fun _ => ⟨rfl, rfl⟩
theorem dist12 : Statement .dist12 := fun _ => ⟨rfl, rfl⟩
theorem dist13 : Statement .dist13 := fun _ => ⟨rfl, rfl⟩
theorem dist14 : Statement .dist14 := fun _ => ⟨rfl, rfl⟩
theorem dist15 : Statement .dist15 := fun _ => ⟨rfl, rfl⟩
theorem dist16 : Statement .dist16 := fun _ => ⟨rfl, rfl⟩
theorem dist17 : Statement .dist17 := fun _ => ⟨rfl, rfl⟩
theorem dist18 : Statement .dist18 := fun _ => ⟨rfl, rfl⟩
theorem dist19 : Statement .dist19 := fun _ => ⟨rfl, rfl⟩
theorem dist20 : Statement .dist20 := fun _ => ⟨rfl, rfl⟩
theorem dist21 : Statement .dist21 := fun _ => ⟨rfl, rfl⟩
theorem dist22 : Statement .dist22 := fun _ => ⟨rfl, rfl⟩
theorem dist23 : Statement .dist23 := fun _ => ⟨rfl, rfl⟩
theorem dist24 : Statement .dist24 := fun _ => ⟨rfl, rfl⟩
theorem dist25 : Statement .dist25 := fun _ => ⟨rfl, rfl⟩
theorem dist26 : Statement .dist26 := fun _ => ⟨rfl, rfl⟩
theorem dist27 : Statement .dist27 := fun _ => ⟨rfl, rfl⟩
theorem dist28 : Statement .dist28 := fun _ => ⟨rfl, rfl⟩
theorem dist29 : Statement .dist29 := fun _ => ⟨rfl, rfl⟩
theorem invalidD30 : Statement .invalidD30 := fun _ => ⟨rfl, rfl⟩
theorem invalidD31 : Statement .invalidD31 := fun _ => ⟨rfl, rfl⟩
theorem clLit (c : BitVec 5) : Statement (.clLit c) := by
  revert c; unfold Statement; decide
theorem repPrev : Statement .repPrev := fun _ => ⟨rfl, rfl⟩
theorem repZero : Statement .repZero := fun _ => ⟨rfl, rfl⟩
theorem repZeroLong : Statement .repZeroLong := fun _ => ⟨rfl, rfl⟩
theorem decode : Statement .decode := fun _ => ⟨rfl, rfl⟩

end MatchesRow

end Sys2Proof.Laws
end

