-- ==== Sys2Proof/Laws/State.lean ====
section
/-! SUPPORT. The fields of the state after each named update, the canonical form of the memories at reset and after a program is
placed. -/

namespace Sys2Proof.Machine

/-! ## enterError (R227) -/

@[simp] theorem enterError_cfg (e : ErrKind) (s : State) : (enterError e s).cfg = s.cfg := rfl

@[simp] theorem enterError_regs (e : ErrKind) (s : State) : (enterError e s).regs = s.regs := rfl

@[simp] theorem enterError_cur (e : ErrKind) (s : State) : (enterError e s).cur = s.cur := rfl

@[simp] theorem enterError_outPos (e : ErrKind) (s : State) : (enterError e s).outPos = s.outPos := rfl

@[simp] theorem enterError_status (e : ErrKind) (s : State) : (enterError e s).status = { s.status with busy := false, done := true, errKind := errCode e } := rfl

@[simp] theorem enterError_blk (e : ErrKind) (s : State) : (enterError e s).blk = .error := rfl

@[simp] theorem enterError_loopAt (e : ErrKind) (s : State) : (enterError e s).loopAt = s.loopAt := rfl

@[simp] theorem enterError_hdr (e : ErrKind) (s : State) : (enterError e s).hdr = s.hdr := rfl

@[simp] theorem enterError_seq (e : ErrKind) (s : State) : (enterError e s).seq = s.seq := rfl

@[simp] theorem enterError_cl (e : ErrKind) (s : State) : (enterError e s).cl = s.cl := rfl

@[simp] theorem enterError_ll (e : ErrKind) (s : State) : (enterError e s).ll = s.ll := rfl

@[simp] theorem enterError_dist (e : ErrKind) (s : State) : (enterError e s).dist = s.dist := rfl

@[simp] theorem enterError_scratch (e : ErrKind) (s : State) : (enterError e s).scratch = s.scratch := rfl

@[simp] theorem enterError_syms (e : ErrKind) (s : State) : (enterError e s).syms = s.syms := rfl

@[simp] theorem enterError_inBuf (e : ErrKind) (s : State) : (enterError e s).inBuf = s.inBuf := rfl

@[simp] theorem enterError_outBuf (e : ErrKind) (s : State) : (enterError e s).outBuf = s.outBuf := rfl

@[simp] theorem enterError_hostQ (e : ErrKind) (s : State) : (enterError e s).hostQ = s.hostQ := rfl

@[simp] theorem enterError_hostRd (e : ErrKind) (s : State) : (enterError e s).hostRd = s.hostRd := rfl

/-! ## startActions (R203) -/

@[simp] theorem startActions_cfg (s : State) : (startActions s).cfg = s.cfg := rfl

@[simp] theorem startActions_regs (s : State) : (startActions s).regs = s.regs := rfl

@[simp] theorem startActions_cur (s : State) : (startActions s).cur = s.cur := rfl

@[simp] theorem startActions_outPos (s : State) : (startActions s).outPos = s.outPos := rfl

@[simp] theorem startActions_status (s : State) : (startActions s).status = { busy := true, done := false, errKind := 0#3, truncated := false } := rfl

@[simp] theorem startActions_blk (s : State) : (startActions s).blk = .readBlockHeader := rfl

@[simp] theorem startActions_loopAt (s : State) : (startActions s).loopAt = s.loopAt := rfl

@[simp] theorem startActions_hdr (s : State) : (startActions s).hdr = s.hdr := rfl

@[simp] theorem startActions_seq (s : State) : (startActions s).seq = s.seq := rfl

@[simp] theorem startActions_cl (s : State) : (startActions s).cl = s.cl := rfl

@[simp] theorem startActions_ll (s : State) : (startActions s).ll = s.ll := rfl

@[simp] theorem startActions_dist (s : State) : (startActions s).dist = s.dist := rfl

@[simp] theorem startActions_scratch (s : State) : (startActions s).scratch = s.scratch := rfl

@[simp] theorem startActions_syms (s : State) : (startActions s).syms = s.syms := rfl

@[simp] theorem startActions_inBuf (s : State) : (startActions s).inBuf = s.inBuf := rfl

@[simp] theorem startActions_outBuf (s : State) : (startActions s).outBuf = s.outBuf := rfl

@[simp] theorem startActions_hostQ (s : State) : (startActions s).hostQ = s.hostQ := rfl

@[simp] theorem startActions_hostRd (s : State) : (startActions s).hostRd = s.hostRd := rfl

/-! ## completeSuccess (R204) -/

@[simp] theorem completeSuccess_cfg (s : State) : (completeSuccess s).cfg = s.cfg := rfl

@[simp] theorem completeSuccess_regs (s : State) : (completeSuccess s).regs = s.regs := rfl

@[simp] theorem completeSuccess_cur (s : State) : (completeSuccess s).cur = s.cur := rfl

@[simp] theorem completeSuccess_outPos (s : State) : (completeSuccess s).outPos = s.outPos := rfl

@[simp] theorem completeSuccess_status (s : State) : (completeSuccess s).status = { s.status with busy := false, done := true } := rfl

@[simp] theorem completeSuccess_blk (s : State) : (completeSuccess s).blk = .done := rfl

@[simp] theorem completeSuccess_loopAt (s : State) : (completeSuccess s).loopAt = s.loopAt := rfl

@[simp] theorem completeSuccess_hdr (s : State) : (completeSuccess s).hdr = s.hdr := rfl

@[simp] theorem completeSuccess_seq (s : State) : (completeSuccess s).seq = s.seq := rfl

@[simp] theorem completeSuccess_cl (s : State) : (completeSuccess s).cl = s.cl := rfl

@[simp] theorem completeSuccess_ll (s : State) : (completeSuccess s).ll = s.ll := rfl

@[simp] theorem completeSuccess_dist (s : State) : (completeSuccess s).dist = s.dist := rfl

@[simp] theorem completeSuccess_scratch (s : State) : (completeSuccess s).scratch = s.scratch := rfl

@[simp] theorem completeSuccess_syms (s : State) : (completeSuccess s).syms = s.syms := rfl

@[simp] theorem completeSuccess_inBuf (s : State) : (completeSuccess s).inBuf = s.inBuf := rfl

@[simp] theorem completeSuccess_outBuf (s : State) : (completeSuccess s).outBuf = s.outBuf := rfl

@[simp] theorem completeSuccess_hostQ (s : State) : (completeSuccess s).hostQ = s.hostQ := rfl

@[simp] theorem completeSuccess_hostRd (s : State) : (completeSuccess s).hostRd = s.hostRd := rfl

/-! ## Memories -/

theorem reset_inBuf_wf : State.reset.inBuf.wf = true := rfl

theorem reset_outBuf_wf : State.reset.outBuf.wf = true := rfl

theorem placeBit_wf {m : Memory} (k : Nat) (b : Bool) (w : m.wf = true) : (placeBit m k b).wf = true := Memory.write_wf _ _ w

theorem placeBits_wf {m : Memory} (k : Nat) (bs : List Bool) (w : m.wf = true) : (placeBits m k bs).wf = true := by
  induction bs generalizing m k with
  | nil => exact w
  | cons b bs ih => exact ih (k + 1) (placeBit_wf k b w)

end Sys2Proof.Machine
end

