-- ==== Sys2Proof/Laws/Walk.lean ====
section
/-! SUPPORT. The table walk of the symbol decoder (spec R140) against the slots the bits of the stream lead to, and reading an element at
the end of IN. -/

namespace Sys2Proof.Machine

/-- The state after the walk has read `n` bits; the walk position is TPOS. -/
def afterWalk (n : Nat) (tpos : BitVec 9) (s : State) : State :=
  { s with cur := advance s.cur n, syms := { s.syms with tpos := tpos } }

@[simp] theorem afterWalk_afterWalk (m n : Nat) (a b : BitVec 9) (s : State) :
    afterWalk n b (afterWalk m a s) = afterWalk (m + n) b s := by simp [afterWalk]

/-- One bit of a walk, where IN is not exhausted. -/
theorem walkTrie_bit (t : List Slot) (fuel k : Nat) {s : State} (h : s.cur.byteOff < s.regs.inLen)
    (hw : s.regs.inLen < 2 ^ s.cfg.addrW) :
    walkTrie t (fuel + 1) k s =
      match t.getD (2 * k + (streamBit s (bitPos s.cur)).toNat) .empty with
      | .empty => .error (.raised .invalidBlockData) (afterWalk 1 (BitVec.ofNat 9 k) s)
      | .leaf v => .ok v (afterWalk 1 (BitVec.ofNat 9 k) s)
      | .node j => walkTrie t fuel j (afterWalk 1 (BitVec.ofNat 9 k) s) := by
  simp only [walkTrie, setTpos, bind_apply, modify_apply, readMsb_one]
  rw [readBit_ok (by exact h) (by exact hw)]
  dsimp only
  have : streamBit { s with syms := { s.syms with tpos := BitVec.ofNat 9 k } } (bitPos s.cur) = streamBit s (bitPos s.cur) := rfl
  rw [this]
  cases t.getD (2 * k + (streamBit s (bitPos s.cur)).toNat) Slot.empty <;> rfl

/-- R142: a walk that finds IN exhausted. -/
theorem walkTrie_end (t : List Slot) (fuel k : Nat) {s : State} (h : s.regs.inLen ≤ s.cur.byteOff) :
    walkTrie t (fuel + 1) k s = .error (.raised .endOfInput) (afterWalk 0 (BitVec.ofNat 9 k) s) := by
  simp only [walkTrie, setTpos, bind_apply, modify_apply, readMsb_one]
  rw [readBit_end (by exact h)]
  simp [afterWalk]

theorem bitsAt_afterWalk (n : Nat) (p : BitVec 9) (s : State) (k : Nat) (bs : List Bool) :
    bitsAt (afterWalk n p s) k bs ↔ bitsAt s k bs := by
  induction bs generalizing k with
  | nil => exact Iff.rfl
  | cons b bs ih => exact and_congr Iff.rfl (ih (k + 1))

/-- R140: a walk whose bits lead to a leaf answers its symbol and has read just those bits. -/
theorem walkTrie_leaf {t : List Slot} {bs : List Bool} {fuel k v : Nat} {s : State} (hf : bs.length ≤ fuel)
    (hb : bitsAt s (bitPos s.cur) bs) (hr : readable s bs.length) (hl : slotAfter t (.node k) bs = some (.leaf v)) :
    ∃ p, walkTrie t fuel k s = .ok v (afterWalk bs.length p s) := by
  induction bs generalizing fuel k s with
  | nil => simp [slotAfter] at hl
  | cons b bs ih =>
    obtain ⟨fuel, rfl⟩ : ∃ f, fuel = f + 1 := ⟨fuel - 1, by simp at hf; omega⟩
    obtain ⟨h1, h2⟩ := readable_succ hr
    obtain ⟨hb1, hb2⟩ := hb
    rw [walkTrie_bit t fuel k h1 hr.1, hb1]
    simp only [slotAfter] at hl
    split
    · rename_i he
      rw [he] at hl
      cases bs <;> simp [slotAfter] at hl
    · rename_i w he
      rw [he] at hl
      cases bs with
      | nil => simp only [slotAfter, Option.some.injEq, Slot.leaf.injEq] at hl; subst hl; exact ⟨_, rfl⟩
      | cons => simp [slotAfter] at hl
    · rename_i j he
      rw [he] at hl
      have hr' : readable (afterWalk 1 (BitVec.ofNat 9 k) s) bs.length := h2
      obtain ⟨p, hp⟩ := ih (by simpa using hf) (by rw [bitsAt_afterWalk]; simpa [afterWalk] using hb2) hr' hl
      exact ⟨p, by rw [hp, afterWalk_afterWalk, Nat.add_comm, List.length_cons]⟩

/-- R225: at the end of IN no header or code is read, and the cursor stays. -/
theorem fetch_end {s : State} (h : s.regs.inLen ≤ s.cur.byteOff) : ∃ e t, fetch s = .error e t ∧ t.cur = s.cur := by
  have hd : ∀ l, decodeSymbol l s = .error (.raised .endOfInput) (afterWalk 0 (BitVec.ofNat 9 0) s) := fun l =>
    walkTrie_end l (bitsLeft s) 0 h
  have ha : (afterWalk 0 (BitVec.ofNat 9 0) s).cur = s.cur := advance_zero _
  have hh : readHeader s = .error (.raised .endOfInput) s := by
    simp only [readHeader, bind_apply, readMsb_one, readBit_end h]
  simp only [fetch, bind_apply, get_apply]
  cases nextFormat s with
  | none => exact ⟨_, _, rfl, rfl⟩
  | some f =>
    simp only [bind_apply, fetchValue, get_apply]
    cases f
    · simp only [hh]; exact ⟨_, _, rfl, rfl⟩
    · simp only [hd]; exact ⟨_, _, rfl, ha⟩
    · simp only [hd]; exact ⟨_, _, rfl, ha⟩
    · simp only [hd]; exact ⟨_, _, rfl, ha⟩
    · exact ⟨_, _, rfl, rfl⟩

end Sys2Proof.Machine
end

