-- ==== Sys2Proof/Tests/Slice0.lean ====
section
/-! SUPPORT. The model's own tests: the checks of well-formedness, the words of the opcode table, the spec's worked examples one step
at a time, and a witness for the hypotheses of every statement. Expected results come from spec/; each test names its source. -/

set_option Elab.async false

open Sys2Proof Sys2Proof.Machine

namespace Sys2Proof.Tests

/-! ## Small states -/

/-- A memory of the bytes from offset 0 on. -/
def bytes (l : List Nat) : Memory := l.zipIdx.foldl (fun m p => m.write p.2 (BitVec.ofNat 8 p.1)) []

/-- An engine after reset whose host has put the bytes in IN and set the registers. -/
def ready (input : List Nat) (cap : Nat) : State :=
  { State.reset with
    regs := { inLen := input.length, outCap := cap, inBase := 0, outBase := 0x10000 }
    inBuf := bytes input }

/-- The same engine while BUSY, at the start of a block. -/
def busy (input : List Nat) (cap : Nat) : State :=
  { ready input cap with blk := .readBlockHeader, status := { busy := true, done := false, errKind := 0, truncated := false } }

/-- The same in the symbol loop of a fixed block. -/
def inFixed (input : List Nat) (cap : Nat) : State := { busy input cap with blk := .fixedBlock, loopAt := .symbols }

/-- With the cursor at bit `k` of byte `b`. -/
def at_ (b k : Nat) (s : State) : State := { s with cur := { byteOff := b, bitOff := BitVec.ofNat 3 k } }

/-- With OUT holding the bytes from offset 0 on, and OUT_POS just past them. -/
def wrote (l : List Nat) (s : State) : State := { s with outBuf := bytes l, outPos := l.length }

/-- In the length sequence of a dynamic block, LS_I at `i`. -/
def inLengths (hlit hdist i : Nat) (s : State) : State :=
  { s with
    blk := .dynamicBlock
    loopAt := .lengths
    hdr := { s.hdr with hlit := BitVec.ofNat 9 hlit, hdist := BitVec.ofNat 6 hdist }
    seq := { s.seq with lsI := BitVec.ofNat 9 i } }

/-- Something of the next state, if there is one. -/
def next? {α : Type} (f : State → α) (o : Host.Outcome State Fault Refusal) : Option α := (nextOf o).map f

/-- The refusal, if it is one. -/
def refusalOf : Host.Outcome State Fault Refusal → Option Refusal
  | .next _ => none
  | .fault _ => none
  | .refused r => some r

/-- STATE, ERR_KIND and the cursor. -/
def endOf (s : State) : BlockState × Nat × Nat × Nat := (s.blk, s.status.errKind.toNat, s.cur.byteOff, s.cur.bitOff.toNat)

/-- OUT_POS and the bytes of OUT below it. -/
def outOf (s : State) : Nat × List Nat := (s.outPos, (List.range s.outPos).map fun a => (s.outBuf.read a).toNat)

/-! ## Well-formedness -/

/-- R82: 256 is no literal. -/
theorem test_lit_256_is_ill_formed : (Instr.lit 256).wellFormed = false := by decide

/-- R82: 255 is the last literal. -/
theorem test_lit_255_is_well_formed : (Instr.lit 255).wellFormed = true := by decide

/-- R84: 16 is no literal length. -/
theorem test_cl_lit_16_is_ill_formed : (Instr.clLit 16).wellFormed = false := by decide

/-- R84: 15 is the last literal length. -/
theorem test_cl_lit_15_is_well_formed : (Instr.clLit 15).wellFormed = true := by decide

/-! ## Words of spec/opcode_table.json, bit by bit -/

/-- R72: V[0] is BFINAL and V[2:1] is BTYPE. -/
theorem test_decode_headers : [0b000, 0b001, 0b010, 0b011, 0b100, 0b101, 0b110, 0b111].map (decode .blockHeader) =
  [.ok (.stored false), .ok (.stored true), .ok (.fixed false), .ok (.fixed true), .ok (.dynamic false), .ok (.dynamic true),
   .ok (.reserved false), .ok (.reserved true)] := by decide

/-- R82: 0 to 255 are literals. -/
theorem test_decode_literals : [0b000000000, 0b001000001, 0b011111111].map (decode .litlenSymbol) = [.ok (.lit 0), .ok (.lit 0x41), .ok (.lit 0xFF)] := by decide

/-- R82: the literal/length symbols 256 to 263. -/
theorem test_decode_litlen_256 : [0b100000000, 0b100000001, 0b100000010, 0b100000011, 0b100000100, 0b100000101, 0b100000110, 0b100000111].map (decode .litlenSymbol) =
  [.ok .eob, .ok .len257, .ok .len258, .ok .len259, .ok .len260, .ok .len261, .ok .len262, .ok .len263] := by decide

/-- R82: the literal/length symbols 264 to 271. -/
theorem test_decode_litlen_264 : [0b100001000, 0b100001001, 0b100001010, 0b100001011, 0b100001100, 0b100001101, 0b100001110, 0b100001111].map (decode .litlenSymbol) =
  [.ok .len264, .ok .len265, .ok .len266, .ok .len267, .ok .len268, .ok .len269, .ok .len270, .ok .len271] := by decide

/-- R82: the literal/length symbols 272 to 279. -/
theorem test_decode_litlen_272 : [0b100010000, 0b100010001, 0b100010010, 0b100010011, 0b100010100, 0b100010101, 0b100010110, 0b100010111].map (decode .litlenSymbol) =
  [.ok .len272, .ok .len273, .ok .len274, .ok .len275, .ok .len276, .ok .len277, .ok .len278, .ok .len279] := by decide

/-- R82: the literal/length symbols 280 to 287. -/
theorem test_decode_litlen_280 : [0b100011000, 0b100011001, 0b100011010, 0b100011011, 0b100011100, 0b100011101, 0b100011110, 0b100011111].map (decode .litlenSymbol) =
  [.ok .len280, .ok .len281, .ok .len282, .ok .len283, .ok .len284, .ok .len285, .ok .invalid286, .ok .invalid287] := by decide

/-- R83: the distance symbols 0 to 7. -/
theorem test_decode_dist_0 : [0b00000, 0b00001, 0b00010, 0b00011, 0b00100, 0b00101, 0b00110, 0b00111].map (decode .distSymbol) =
  [.ok .dist0, .ok .dist1, .ok .dist2, .ok .dist3, .ok .dist4, .ok .dist5, .ok .dist6, .ok .dist7] := by decide

/-- R83: the distance symbols 8 to 15. -/
theorem test_decode_dist_8 : [0b01000, 0b01001, 0b01010, 0b01011, 0b01100, 0b01101, 0b01110, 0b01111].map (decode .distSymbol) =
  [.ok .dist8, .ok .dist9, .ok .dist10, .ok .dist11, .ok .dist12, .ok .dist13, .ok .dist14, .ok .dist15] := by decide

/-- R83: the distance symbols 16 to 23. -/
theorem test_decode_dist_16 : [0b10000, 0b10001, 0b10010, 0b10011, 0b10100, 0b10101, 0b10110, 0b10111].map (decode .distSymbol) =
  [.ok .dist16, .ok .dist17, .ok .dist18, .ok .dist19, .ok .dist20, .ok .dist21, .ok .dist22, .ok .dist23] := by decide

/-- R83: the distance symbols 24 to 31. -/
theorem test_decode_dist_24 : [0b11000, 0b11001, 0b11010, 0b11011, 0b11100, 0b11101, 0b11110, 0b11111].map (decode .distSymbol) =
  [.ok .dist24, .ok .dist25, .ok .dist26, .ok .dist27, .ok .dist28, .ok .dist29, .ok .invalidD30, .ok .invalidD31] := by decide

/-- R84: the code-length symbols. -/
theorem test_decode_cl : [0b00000, 0b01111, 0b10000, 0b10001, 0b10010].map (decode .clSymbol) =
  [.ok (.clLit 0), .ok (.clLit 15), .ok .repPrev, .ok .repZero, .ok .repZeroLong] := by decide

/-- R26: a write of 1 issues DECODE, a write of 0 has no effect. -/
theorem test_decode_command : decode .hostCommand 0b1 = .ok .decode ∧ decode .hostCommand 0b0 = .error .noStart := by decide

/-- R82, R83, R84: values that are no symbol. -/
theorem test_decode_rejects : [decode .litlenSymbol 288, decode .litlenSymbol 512, decode .clSymbol 19, decode .distSymbol 32, decode .blockHeader 8] =
  [.error .outsideLitlenAlphabet, .error .tooWide, .error .outsideCodeLengthAlphabet, .error .tooWide, .error .tooWide] := by decide

/-- V41.10 and R86: 'A' is 01110001, the end of block 0000000, distance symbol 2 00010. -/
theorem test_fixed_code_bits : [fixedStreamBits (.lit 0x41), fixedStreamBits .eob, fixedStreamBits .dist2] =
  [some [false, true, true, true, false, false, false, true], some (List.replicate 7 false), some [false, false, false, true, false]] := by decide +kernel

/-! ## The bit cursor (V40) -/

/-- V40.1. -/
theorem test_read_lsb_3 : (match readLsb 3 (ready [0xB4, 0x0F] 0) with | .ok v s => some (v, s.cur) | .error _ _ => none) = some (4, ⟨0, 3⟩) := by decide +kernel

/-- V40.6. -/
theorem test_read_lsb_across_bytes : (match readLsb 5 (at_ 0 5 (ready [0xB4, 0x0F] 0)) with | .ok v s => some (v, s.cur) | .error _ _ => none) = some (29, ⟨1, 2⟩) := by decide +kernel

/-- V40.3. -/
theorem test_read_msb_3 : (match readMsb 3 (ready [0xB4] 0) with | .ok v s => some (v, s.cur) | .error _ _ => none) = some (1, ⟨0, 3⟩) := by decide +kernel

/-- V40.9. -/
theorem test_read_lsb_past_the_end : (match readLsb 3 (at_ 0 6 (ready [0xB4] 0)) with | .ok _ _ => none | .error e s => some (e, s.cur)) = some (.raised .endOfInput, ⟨1, 0⟩) := by decide +kernel

/-- V40.7. -/
theorem test_read_le16 : (match readLe16 (ready [0x34, 0x12] 0) with | .ok v s => some (v, s.cur) | .error _ _ => none) = some (0x1234, ⟨2, 0⟩) := by decide +kernel

/-- V40.4. -/
theorem test_align : (match alignToByte (at_ 0 3 (ready [0xB4, 0x0F] 0)) with | .ok _ s => some s.cur | .error _ _ => none) = some ⟨1, 0⟩ := by decide +kernel

/-! ## Codes and tables (V42 to V44) -/

/-- V42.2. -/
theorem test_build_codes : buildCodes 4 [3, 3, 3, 3, 3, 2, 4, 4] = some [0b010, 0b011, 0b100, 0b101, 0b110, 0b00, 0b1110, 0b1111] := by decide +kernel

/-- V42.3, V42.4. -/
theorem test_kraft_refused : buildCodes 2 [1, 1, 1] = none ∧ buildCodes 7 (List.replicate 19 1) = none := by decide +kernel

/-- V43.2. -/
theorem test_compile : (match compileTable 8 [3, 3, 3, 3, 3, 2, 4, 4] [2, 3, 4, 5, 6, 0, 14, 15] with
  | .ok t => some (t.slots.map (rawOfSlot 8), t.nodes) | .error _ => none) =
  some ([9, 11, 5, 10, 0, 1, 12, 13, 2, 3, 4, 14, 6, 7], 6) := by decide +kernel

/-- V43.6: nineteen codes of length 7 need more nodes than the table has. -/
theorem test_compile_out_of_nodes : (match compileTable 19 (List.replicate 19 7) (List.range 19) with | .ok _ => none | .error t => some t.nodes) = some 17 := by decide +kernel

/-- V44.1. -/
theorem test_decode_symbol : (match decodeSymbol [.leaf 1, .node 1, .leaf 0, .node 2, .leaf 2, .leaf 3] (ready [0b011] 0) with
  | .ok v s => some (v, s.cur) | .error _ _ => none) = some (2, ⟨0, 3⟩) := by decide +kernel

/-- V44.3. -/
theorem test_decode_symbol_empty_slot : (match decodeSymbol [.node 1, .node 2, .leaf 0, .leaf 1, .leaf 2, .empty] (ready [0b11] 0) with
  | .ok _ _ => none | .error e s => some (e, s.cur)) = some (.raised .invalidBlockData, ⟨0, 2⟩) := by decide +kernel

/-! ## The sink and the copy engine (V47) -/

/-- V47.1. -/
theorem test_sink_drops : (match sinkWrite 0x41 (wrote [1, 2] (ready [] 2)) with | .ok _ s => some (outOf s, s.status.truncated) | .error _ _ => none) =
  some ((3, [1, 2, 0]), true) := by decide +kernel

/-- V47.4. -/
theorem test_copy_overlaps : (match copyBackReference 5 2 (wrote [0x41, 0x42] (ready [] 16)) with | .ok _ s => some (outOf s) | .error _ _ => none) =
  some (7, [0x41, 0x42, 0x41, 0x42, 0x41, 0x42, 0x41]) := by decide +kernel

/-! ## One step of each instruction -/

/-- R154: HELLO. -/
theorem test_stored : next? (fun s => (endOf s, outOf s)) (exec (.stored true) (at_ 0 3 (busy [0x01, 0x05, 0x00, 0xFA, 0xFF, 0x48, 0x45, 0x4C, 0x4C, 0x4F] 5))) =
  some ((.done, 0, 10, 0), (5, [0x48, 0x45, 0x4C, 0x4C, 0x4F])) := by decide +kernel

/-- V45.1. -/
theorem test_stored_mismatch : next? endOf (exec (.stored true) (at_ 0 3 (busy [0x01, 0x05, 0x00, 0xFB, 0xFF, 0x48, 0x45, 0x4C, 0x4C, 0x4F] 5))) = some (.error, 1, 5, 0) := by decide +kernel

/-- R157, R113, R114. -/
theorem test_fixed : next? (fun s => (s.blk, s.hdr.btype, tabGet s.ll.lens 256 0, tabGet s.dist.lens 31 0)) (exec (.fixed true) (busy [] 0)) =
  some (.fixedBlock, 1, 7, 5) := by decide +kernel

/-- P3: HLIT 258, HDIST 4, HCLEN 16 and the code-length lengths. -/
theorem test_dynamic : next? (fun s => ((s.hdr.hlit, s.hdr.hdist, s.hdr.hclen), [16, 18, 2, 0].map (fun k => tabGet s.cl.lens k 0), s.loopAt))
    (exec (.dynamic true) (at_ 0 3 (busy [0x0D, 0x83, 0x05, 0x01, 0x00, 0x00, 0x00, 0x40, 0xB6, 0xF2, 0x7F, 0x84, 0x44, 0xCE, 0x09] 16))) =
  some ((258, 4, 16), [2, 2, 1, 0], .lengths) := by decide +kernel

/-- V45.8. -/
theorem test_dynamic_out_of_nodes : next? endOf (exec (.dynamic true) (at_ 0 3 (busy [0x05, 0xE0, 0xFF, 0xFF, 0xFF, 0xFF, 0xFF, 0xFF, 0xFF, 0x03] 0))) = some (.error, 4, 9, 2) := by decide +kernel

/-- R153: OUT_POS stays 7. -/
theorem test_reserved : next? (fun s => (endOf s, s.outPos)) (exec (.reserved true) (at_ 0 3 (wrote [1, 2, 3, 4, 5, 6, 7] (busy [0x07] 9)))) =
  some ((.error, 3, 0, 3), 7) := by decide +kernel

/-- R181. -/
theorem test_lit : next? outOf (exec (.lit 0x41) (inFixed [] 1)) = some (1, [0x41]) := by decide +kernel

/-- V47.6. -/
theorem test_lit_dropped : next? (fun s => (s.outPos, s.status.truncated, s.outBuf)) (exec (.lit 0x41) (inFixed [] 0)) = some (1, true, []) := by decide +kernel

/-- R182: the cursor stays where the code ended. -/
theorem test_eob_final : next? endOf (exec .eob (at_ 1 2 { inFixed [0x03, 0x00] 0 with hdr := { (inFixed [] 0).hdr with bfinal := 1 } })) = some (.done, 0, 1, 2) := by decide +kernel

/-- V45.4: the second header starts at (2,2). -/
theorem test_eob_not_final : next? endOf (exec .eob (at_ 2 2 (inFixed [0x8A, 0x02, 0x1C] 1))) = some (.readBlockHeader, 0, 2, 2) := by decide +kernel

/-- R110, the top of each range: the length symbols 257 to 264 with extra bits all 1. -/
theorem test_len_257 : [.len257, .len258, .len259, .len260, .len261, .len262, .len263, .len264].map (fun i => next? (fun s => (s.syms.mlen.toNat, s.cur.bitOff.toNat)) (exec i (inFixed [0xFF] 0))) =
  [some (3, 0), some (4, 0), some (5, 0), some (6, 0), some (7, 0), some (8, 0), some (9, 0), some (10, 0)] := by decide +kernel

/-- R110, the top of each range: the length symbols 265 to 272 with extra bits all 1. -/
theorem test_len_265 : [.len265, .len266, .len267, .len268, .len269, .len270, .len271, .len272].map (fun i => next? (fun s => (s.syms.mlen.toNat, s.cur.bitOff.toNat)) (exec i (inFixed [0xFF] 0))) =
  [some (12, 1), some (14, 1), some (16, 1), some (18, 1), some (22, 2), some (26, 2), some (30, 2), some (34, 2)] := by decide +kernel

/-- R110, the top of each range: the length symbols 273 to 280 with extra bits all 1. -/
theorem test_len_273 : [.len273, .len274, .len275, .len276, .len277, .len278, .len279, .len280].map (fun i => next? (fun s => (s.syms.mlen.toNat, s.cur.bitOff.toNat)) (exec i (inFixed [0xFF] 0))) =
  [some (42, 3), some (50, 3), some (58, 3), some (66, 3), some (82, 4), some (98, 4), some (114, 4), some (130, 4)] := by decide +kernel

/-- R110, the top of each range: the length symbols 281 to 285 with extra bits all 1. -/
theorem test_len_281 : [.len281, .len282, .len283, .len284, .len285].map (fun i => next? (fun s => (s.syms.mlen.toNat, s.cur.bitOff.toNat)) (exec i (inFixed [0xFF] 0))) =
  [some (162, 5), some (194, 5), some (226, 5), some (258, 5), some (258, 0)] := by decide +kernel

/-- R110: the bottom of the range of symbol 265. -/
theorem test_len_265_extra_0 : next? (fun s => s.syms.mlen.toNat) (exec .len265 (inFixed [0x00] 0)) = some 11 := by decide +kernel

/-- V46.2: no extra bit is read. -/
theorem test_invalid_286 : next? endOf (exec .invalid286 (at_ 2 3 (inFixed [0x73, 0x1C, 0x03] 1))) = some (.error, 2, 2, 3) := by decide +kernel

/-- R184. -/
theorem test_invalid_287 : next? endOf (exec .invalid287 (at_ 2 3 (inFixed [0x73, 0x1C, 0x03] 1))) = some (.error, 2, 2, 3) := by decide +kernel

/-- R111, R187, the top of each range: the distance symbols 0 to 7 with extra bits all 1, beyond OUT_POS 0. -/
theorem test_dist_0 : [.dist0, .dist1, .dist2, .dist3, .dist4, .dist5, .dist6, .dist7].map (fun i => next? (fun s => (s.syms.mdist.toNat, s.blk, s.cur.byteOff * 8 + s.cur.bitOff.toNat)) (exec i (inFixed [0xFF, 0xFF] 0))) =
  [some (1, .error, 0), some (2, .error, 0), some (3, .error, 0), some (4, .error, 0), some (6, .error, 1), some (8, .error, 1), some (12, .error, 2), some (16, .error, 2)] := by decide +kernel

/-- R111, R187, the top of each range: the distance symbols 8 to 15 with extra bits all 1, beyond OUT_POS 0. -/
theorem test_dist_8 : [.dist8, .dist9, .dist10, .dist11, .dist12, .dist13, .dist14, .dist15].map (fun i => next? (fun s => (s.syms.mdist.toNat, s.blk, s.cur.byteOff * 8 + s.cur.bitOff.toNat)) (exec i (inFixed [0xFF, 0xFF] 0))) =
  [some (24, .error, 3), some (32, .error, 3), some (48, .error, 4), some (64, .error, 4), some (96, .error, 5), some (128, .error, 5), some (192, .error, 6), some (256, .error, 6)] := by decide +kernel

/-- R111, R187, the top of each range: the distance symbols 16 to 23 with extra bits all 1, beyond OUT_POS 0. -/
theorem test_dist_16 : [.dist16, .dist17, .dist18, .dist19, .dist20, .dist21, .dist22, .dist23].map (fun i => next? (fun s => (s.syms.mdist.toNat, s.blk, s.cur.byteOff * 8 + s.cur.bitOff.toNat)) (exec i (inFixed [0xFF, 0xFF] 0))) =
  [some (384, .error, 7), some (512, .error, 7), some (768, .error, 8), some (1024, .error, 8), some (1536, .error, 9), some (2048, .error, 9), some (3072, .error, 10), some (4096, .error, 10)] := by decide +kernel

/-- R111, R187, the top of each range: the distance symbols 24 to 29 with extra bits all 1, beyond OUT_POS 0. -/
theorem test_dist_24 : [.dist24, .dist25, .dist26, .dist27, .dist28, .dist29].map (fun i => next? (fun s => (s.syms.mdist.toNat, s.blk, s.cur.byteOff * 8 + s.cur.bitOff.toNat)) (exec i (inFixed [0xFF, 0xFF] 0))) =
  [some (6144, .error, 11), some (8192, .error, 11), some (12288, .error, 12), some (16384, .error, 12), some (24576, .error, 13), some (32768, .error, 13)] := by decide +kernel

/-- V47.2. -/
theorem test_dist_copies : next? outOf (exec .dist2 { wrote [0x41, 0x42, 0x43] (inFixed [] 16) with syms := { (inFixed [] 0).syms with mlen := 6 } }) =
  some (9, [0x41, 0x42, 0x43, 0x41, 0x42, 0x43, 0x41, 0x42, 0x43]) := by decide +kernel

/-- V46.9. -/
theorem test_dist_29_farthest : next? (fun s => (s.outPos, (s.outBuf.read 32768).toNat, s.blk)) (exec .dist29 { inFixed [0xFF, 0x1F] 32771 with
    outPos := 32768, outBuf := bytes [0x11], syms := { (inFixed [] 0).syms with mlen := 3 } }) = some (32771, 0x11, .fixedBlock) := by decide +kernel

/-- V46.3: no extra bit is read. -/
theorem test_invalid_d30 : next? endOf (exec .invalidD30 (at_ 2 7 (inFixed [0x73, 0x04, 0x3E] 1))) = some (.error, 2, 2, 7) := by decide +kernel

/-- R186. -/
theorem test_invalid_d31 : next? endOf (exec .invalidD31 (at_ 2 7 (inFixed [0x73, 0x04, 0x3E] 1))) = some (.error, 2, 2, 7) := by decide +kernel

/-- R162. -/
theorem test_cl_lit : next? (fun s => (tabGet s.seq.lenSeq 97 0, s.seq.lsI)) (exec (.clLit 2) (inLengths 258 4 97 (busy [] 0))) = some (2, 98) := by decide +kernel

/-- R163: LENSEQ[257..261] = 2, LS_I = 262. -/
theorem test_rep_prev : next? (fun s => ((List.range 6).map (fun k => tabGet s.seq.lenSeq (256 + k) 0), s.seq.lsI)) (exec .repPrev
    { inLengths 258 4 257 (busy [0b10] 0) with seq := { lenSeq := tabSet (Vector.replicate 320 0) 256 2, lsI := 257 } }) =
  some ([2, 2, 2, 2, 2, 2], 262) := by decide +kernel

/-- V45.6: the two extra bits are read first. -/
theorem test_rep_prev_first : next? endOf (exec .repPrev (at_ 3 6 (inLengths 257 1 0 (busy [0x05, 0x00, 0x02, 0x24] 0)))) = some (.error, 2, 4, 0) := by decide +kernel

/-- R164: extra 7 fills 247 to 256. -/
theorem test_rep_zero : next? (fun s => ([246, 247, 256, 257].map (fun k => tabGet s.seq.lenSeq k 0), s.seq.lsI)) (exec .repZero
    { inLengths 258 4 247 (busy [0b111] 0) with seq := { lenSeq := Vector.replicate 320 9, lsI := 247 } }) = some ([9, 0, 0, 9], 257) := by decide +kernel

/-- R165: 138 + 138 passes 258. -/
theorem test_rep_zero_long_overflow : next? endOf (exec .repZeroLong (inLengths 257 1 138 (busy [0x7F] 0))) = some (.error, 2, 0, 7) := by decide +kernel

/-- R165: the first run fills 0 to 137. -/
theorem test_rep_zero_long : next? (fun s => s.seq.lsI) (exec .repZeroLong (inLengths 257 1 0 (busy [0x7F] 0))) = some 138 := by decide +kernel

/-- V48.5: ERR_KIND is cleared at START. -/
theorem test_decode_starts : next? (fun s => (s.blk, s.status.busy, s.status.errKind)) (exec .decode { ready [0x07] 4 with
    blk := .error, status := { busy := false, done := true, errKind := 3, truncated := true } }) = some (.readBlockHeader, true, 0) := by decide +kernel

/-- V48.4. -/
theorem test_decode_while_busy : refusalOf (exec .decode (busy [0x07] 4)) = some .startWhileBusy := by decide +kernel

/-! ## Whole steps of the machine -/

/-- X6: IN = 07 is InvalidEncoding at (0,3). -/
theorem test_step_header : next? endOf (step (busy [0x07] 4)) = some (.error, 3, 0, 3) := by decide +kernel

/-- R157: the first literal of AAAA. -/
theorem test_step_literal : next? (fun s => (endOf s, outOf s)) (step (at_ 0 3 (inFixed [0x73, 0x74, 0x74, 0x74, 0x04, 0x00] 4))) =
  some ((.fixedBlock, 0, 1, 3), (1, [0x41])) := by decide +kernel

/-- R166: one distance code of length 1 is accepted, and its unused half stays EMPTY. -/
theorem test_step_builds_tables : next? (fun s => (s.loopAt, tabGet s.ll.lens 256 0, tabGet s.dist.trie 1 .empty)) (step
    { inLengths 257 1 258 (busy [] 0) with seq := { lenSeq := tabSet (tabSet (Vector.replicate 320 0) 256 1) 257 1, lsI := 258 } }) =
  some (.symbols, 1, .empty) := by decide +kernel

/-- P2. -/
theorem test_run_two_blocks : next? (fun s => (endOf s, outOf s)) (runDecode (ready [0x00, 0x03, 0x00, 0xFC, 0xFF, 0x78, 0x79, 0x7A, 0x03, 0x22, 0x00] 16)) =
  some ((.done, 0, 10, 6), (6, [0x78, 0x79, 0x7A, 0x78, 0x79, 0x7A])) := by decide +kernel

/-- P3. -/
theorem test_run_dynamic : next? (fun s => (endOf s, outOf s)) (runDecode (ready [0x0D, 0x83, 0x05, 0x01, 0x00, 0x00, 0x00, 0x40, 0xB6, 0xF2, 0x7F, 0x84, 0x44, 0xCE, 0x09] 16)) =
  some ((.done, 0, 14, 5), (10, [0x61, 0x62, 0x61, 0x61, 0x62, 0x61, 0x62, 0x62, 0x62, 0x62])) := by decide +kernel

/-- R27. -/
theorem test_status_word : statusWord { busy := false, done := true, errKind := 5, truncated := true } = 0b110110 := by decide

/-- The word of RESERVED, placed after reset, runs. -/
theorem test_fetch_word_runs : next? endOf (step (State.reset.withFetchWord 8 6)) = some (.error, 3, 0, 3) := by decide +kernel

/-! ## Witnesses: the hypotheses of the statements can be met, clause by clause -/

/-- A decision for bitsAt. -/
def bitsAtB (s : State) : Nat → List Bool → Bool
  | _, [] => true
  | k, b :: bs => (streamBit s k == b) && bitsAtB s (k + 1) bs

theorem bitsAt_of {s : State} {k : Nat} {bs : List Bool} (h : bitsAtB s k bs = true) : bitsAt s k bs := by
  induction bs generalizing k with
  | nil => exact trivial
  | cons b bs ih =>
    simp only [bitsAtB, Bool.and_eq_true, beq_iff_eq] at h
    exact ⟨h.1, ih h.2⟩

/-- A decision for readable. -/
def readableB (s : State) (n : Nat) : Bool :=
  decide (s.regs.inLen < 2 ^ s.cfg.addrW) && decide (n = 0 ∨ bitPos s.cur + n ≤ 8 * s.regs.inLen)

theorem readable_of {s : State} {n : Nat} (h : readableB s n = true) : readable s n := by
  simp only [readableB, Bool.and_eq_true, decide_eq_true_eq] at h
  exact h

theorem next_of {α φ ρ : Type} {o : Host.Outcome α φ ρ} (p : α → Bool) (h : (nextOf o).any p = true) : ∃ t, o = .next t ∧ p t = true := by
  cases o with
  | next t => exact ⟨t, rfl, by simpa [nextOf] using h⟩
  | fault f => simp [nextOf] at h
  | refused r => simp [nextOf] at h

theorem invariant_of {s : State}
    (h : (memoryOk s && sessionOk s && sequenceOk s && copyOk s && tablesOk s && widthsOk s) = true) : MachineInv s := by
  simp only [Bool.and_eq_true] at h
  exact ⟨h.1.1.1.1.1, h.1.1.1.1.2, h.1.1.1.2, h.1.1.2, h.1.2, h.2⟩

/-- A running engine with ADDR_W = 4, for the faults of R9. -/
def narrow (s : State) : State := { s with cfg := { s.cfg with addrW := 4 } }

/-- R85: the code of symbol 0. -/
theorem witness_FixedLitlenCodesAreRead_first : ∃ (s : State) (v : Nat) (i : Instr),
    s.blk = .fixedBlock ∧ s.loopAt = .symbols ∧ decode .litlenSymbol v = .ok i ∧ readable s (fixedLitlenCode v).1 ∧ bitsAt s (bitPos s.cur) (bitsMsb (fixedLitlenCode v).1 (fixedLitlenCode v).2) :=
  ⟨inFixed [0x0C] 0, 0, .lit 0, rfl, rfl, by decide +kernel, readable_of (by decide +kernel), bitsAt_of (by decide +kernel)⟩

/-- R85: the code of symbol 287. -/
theorem witness_FixedLitlenCodesAreRead_last : ∃ (s : State) (v : Nat) (i : Instr),
    s.blk = .fixedBlock ∧ s.loopAt = .symbols ∧ decode .litlenSymbol v = .ok i ∧ readable s (fixedLitlenCode v).1 ∧ bitsAt s (bitPos s.cur) (bitsMsb (fixedLitlenCode v).1 (fixedLitlenCode v).2) :=
  ⟨inFixed [0xE3] 0, 287, .invalid287, rfl, rfl, by decide +kernel, readable_of (by decide +kernel), bitsAt_of (by decide +kernel)⟩

/-- R85: the code of symbol 256. -/
theorem witness_FixedLitlenCodesAreRead_eob : ∃ (s : State) (v : Nat) (i : Instr),
    s.blk = .fixedBlock ∧ s.loopAt = .symbols ∧ decode .litlenSymbol v = .ok i ∧ readable s (fixedLitlenCode v).1 ∧ bitsAt s (bitPos s.cur) (bitsMsb (fixedLitlenCode v).1 (fixedLitlenCode v).2) :=
  ⟨inFixed [0x00] 0, 256, .eob, rfl, rfl, by decide +kernel, readable_of (by decide +kernel), bitsAt_of (by decide +kernel)⟩

/-- R85: the code of symbol 255. -/
theorem witness_FixedLitlenCodesAreRead_nine_bits : ∃ (s : State) (v : Nat) (i : Instr),
    s.blk = .fixedBlock ∧ s.loopAt = .symbols ∧ decode .litlenSymbol v = .ok i ∧ readable s (fixedLitlenCode v).1 ∧ bitsAt s (bitPos s.cur) (bitsMsb (fixedLitlenCode v).1 (fixedLitlenCode v).2) :=
  ⟨inFixed [0xFF, 0x01] 0, 255, .lit 255, rfl, rfl, by decide +kernel, readable_of (by decide +kernel), bitsAt_of (by decide +kernel)⟩

/-- R86: the code of symbol 0. -/
theorem witness_FixedDistCodesAreRead_first : ∃ (s : State) (v : Nat) (i : Instr),
    s.blk = .fixedBlock ∧ s.loopAt = .distance ∧ decode .distSymbol v = .ok i ∧ readable s 5 ∧ bitsAt s (bitPos s.cur) (bitsMsb 5 v) :=
  ⟨{ inFixed [0x00] 0 with loopAt := .distance }, 0, .dist0, rfl, rfl, by decide +kernel, readable_of (by decide +kernel), bitsAt_of (by decide +kernel)⟩

/-- R86: the code of symbol 31. -/
theorem witness_FixedDistCodesAreRead_last : ∃ (s : State) (v : Nat) (i : Instr),
    s.blk = .fixedBlock ∧ s.loopAt = .distance ∧ decode .distSymbol v = .ok i ∧ readable s 5 ∧ bitsAt s (bitPos s.cur) (bitsMsb 5 v) :=
  ⟨{ inFixed [0x1f] 0 with loopAt := .distance }, 31, .invalidD31, rfl, rfl, by decide +kernel, readable_of (by decide +kernel), bitsAt_of (by decide +kernel)⟩

/-- R151: a header. -/
theorem witness_StepRunsDecodedInstruction_header_stored : ∃ (s : State) (i : Instr),
    s.hostQ = [] ∧ s.status.busy = true ∧ nextFormat s = some .blockHeader ∧ readable s 3 ∧ decode .blockHeader (fieldLsb s (bitPos s.cur) 3) = .ok i :=
  ⟨busy [0] 0, .stored false, rfl, rfl, by decide +kernel, readable_of (by decide +kernel), by decide +kernel⟩

/-- R151: a header. -/
theorem witness_StepRunsDecodedInstruction_header_reserved : ∃ (s : State) (i : Instr),
    s.hostQ = [] ∧ s.status.busy = true ∧ nextFormat s = some .blockHeader ∧ readable s 3 ∧ decode .blockHeader (fieldLsb s (bitPos s.cur) 3) = .ok i :=
  ⟨busy [7] 0, .reserved true, rfl, rfl, by decide +kernel, readable_of (by decide +kernel), by decide +kernel⟩

/-- R150, R140: a Huffman symbol. -/
theorem witness_StepRunsDecodedInstruction_litlen : ∃ (s : State) (f : Format) (t : List Slot) (bs : List Bool) (v : Nat) (i : Instr),
    s.hostQ = [] ∧ s.status.busy = true ∧ sequenceDone s = false ∧ nextFormat s = some f ∧ tableOf s f = some t ∧ slotAfter t (.node 0) bs = some (.leaf v) ∧ decode f v = .ok i ∧ readable s bs.length ∧ bitsAt s (bitPos s.cur) bs :=
  ⟨inFixed [0x00] 0, .litlenSymbol, fixedLlTrie.toList, List.replicate 7 false, 256, .eob, rfl, rfl, by decide +kernel, by decide +kernel, by decide +kernel, by decide +kernel, by decide +kernel, readable_of (by decide +kernel), bitsAt_of (by decide +kernel)⟩

/-- R150, R140: a Huffman symbol. -/
theorem witness_StepRunsDecodedInstruction_dist : ∃ (s : State) (f : Format) (t : List Slot) (bs : List Bool) (v : Nat) (i : Instr),
    s.hostQ = [] ∧ s.status.busy = true ∧ sequenceDone s = false ∧ nextFormat s = some f ∧ tableOf s f = some t ∧ slotAfter t (.node 0) bs = some (.leaf v) ∧ decode f v = .ok i ∧ readable s bs.length ∧ bitsAt s (bitPos s.cur) bs :=
  ⟨{ inFixed [0x1F] 0 with loopAt := .distance }, .distSymbol, fixedDTrie.toList, List.replicate 5 true, 31, .invalidD31, rfl, rfl, by decide +kernel, by decide +kernel, by decide +kernel, by decide +kernel, by decide +kernel, readable_of (by decide +kernel), bitsAt_of (by decide +kernel)⟩

/-- R150, R140: a Huffman symbol. -/
theorem witness_StepRunsDecodedInstruction_cl : ∃ (s : State) (f : Format) (t : List Slot) (bs : List Bool) (v : Nat) (i : Instr),
    s.hostQ = [] ∧ s.status.busy = true ∧ sequenceDone s = false ∧ nextFormat s = some f ∧ tableOf s f = some t ∧ slotAfter t (.node 0) bs = some (.leaf v) ∧ decode f v = .ok i ∧ readable s bs.length ∧ bitsAt s (bitPos s.cur) bs :=
  ⟨{ inLengths 257 1 0 (busy [0x00] 0) with cl := loadClHuff (busy [0x00] 0) }, .clSymbol, (loadClHuff (busy [0x00] 0)).trie.toList, List.replicate 4 false, 0, .clLit 0, rfl, rfl, by decide +kernel, by decide +kernel, by decide +kernel, by decide +kernel, by decide +kernel, readable_of (by decide +kernel), bitsAt_of (by decide +kernel)⟩

/-- R26: START. -/
theorem witness_StepRunsDecodedInstruction_start : ∃ (s : State) (v : Data) (q : List HostOp),
    s.hostQ = .access (.write .ctrl v) :: q ∧ v.getLsbD 0 = true :=
  ⟨{ ready [] 0 with hostQ := [.access (.write .ctrl 1)] }, 1, [], rfl, by decide⟩

/-- R101: 13 bits up to the end of IN. -/
theorem witness_ReadLsbFirstBitLowest_ok : ∃ (s : State) (n : Nat),
    readable s n :=
  ⟨at_ 0 3 (ready [0xFF, 0xFF] 0), 13, readable_of (by decide +kernel)⟩

/-- R101: one bit short. -/
theorem witness_ReadLsbFirstBitLowest_end : ∃ (s : State) (n : Nat),
    s.regs.inLen < 2 ^ s.cfg.addrW ∧ n ≠ 0 ∧ 8 * s.regs.inLen < bitPos s.cur + n :=
  ⟨at_ 0 4 (ready [0xFF, 0xFF] 0), 13, by decide +kernel⟩

/-- R102: the last bit of IN. -/
theorem witness_ReadMsbFirstBitHighest_ok : ∃ (s : State) (n : Nat),
    n ≠ 0 ∧ readable s n :=
  ⟨at_ 0 7 (ready [0xFF] 0), 1, by decide +kernel, readable_of (by decide +kernel)⟩

/-- R102: past the last bit. -/
theorem witness_ReadMsbFirstBitHighest_end : ∃ (s : State) (n : Nat),
    n ≠ 0 ∧ s.regs.inLen < 2 ^ s.cfg.addrW ∧ 8 * s.regs.inLen < bitPos s.cur + n :=
  ⟨at_ 1 0 (ready [0xFF] 0), 1, by decide +kernel⟩

/-- R140. -/
theorem witness_DecodeSymbolFollowsTheTable_leaf : ∃ (t : List Slot) (s : State) (bs : List Bool) (v : Nat),
    readable s bs.length ∧ bitsAt s (bitPos s.cur) bs ∧ slotAfter t (.node 0) bs = some (.leaf v) :=
  ⟨[.leaf 1, .node 1, .leaf 0, .node 2, .leaf 2, .empty], ready [0b011] 0, [true, true, false], 2, readable_of (by decide +kernel), bitsAt_of (by decide +kernel), by decide +kernel⟩

/-- R141. -/
theorem witness_DecodeSymbolFollowsTheTable_empty : ∃ (t : List Slot) (s : State) (bs : List Bool),
    readable s bs.length ∧ bitsAt s (bitPos s.cur) bs ∧ slotAfter t (.node 0) bs = some .empty :=
  ⟨[.leaf 1, .node 1, .leaf 0, .node 2, .leaf 2, .empty], ready [0b111] 0, [true, true, true], readable_of (by decide +kernel), bitsAt_of (by decide +kernel), by decide +kernel⟩

/-- R142. -/
theorem witness_DecodeSymbolFollowsTheTable_end : ∃ (t : List Slot) (s : State) (bs : List Bool) (k : Nat),
    readable s bs.length ∧ bitsAt s (bitPos s.cur) bs ∧ slotAfter t (.node 0) bs = some (.node k) ∧ 8 * s.regs.inLen ≤ bitPos s.cur + bs.length :=
  ⟨[.leaf 1, .node 1, .leaf 0, .node 2, .leaf 2, .empty], at_ 0 6 (ready [0xC0] 0), [true, true], 2, readable_of (by decide +kernel), bitsAt_of (by decide +kernel), by decide +kernel⟩

/-- R142. -/
theorem witness_DecodeSymbolFollowsTheTable_end_at_once : ∃ (t : List Slot) (s : State) (bs : List Bool) (k : Nat),
    readable s bs.length ∧ bitsAt s (bitPos s.cur) bs ∧ slotAfter t (.node 0) bs = some (.node k) ∧ 8 * s.regs.inLen ≤ bitPos s.cur + bs.length :=
  ⟨[.leaf 1, .node 1, .leaf 0, .node 2, .leaf 2, .empty], at_ 1 0 (ready [0xC0] 0), [], 0, readable_of (by decide +kernel), bitsAt_of (by decide +kernel), by decide +kernel⟩

/-- R121: nineteen codes of length 1. -/
theorem witness_OversubscribedSetBuildsNothing : ∃ (n lenW codeW maxLen : Nat) (h : Huff n lenW codeW),
    buildCodes maxLen (lensOf h) = none :=
  ⟨19, 3, 7, 7, { State.blankHuff 19 3 7 with lens := Vector.replicate 19 1 }, by decide +kernel⟩

/-- R120: the example. -/
theorem witness_CodesAreFirstCodePlusRank : ∃ (maxLen : Nat) (lens codes : List Nat) (s l : Nat),
    buildCodes maxLen lens = some codes ∧ (∀ l ∈ lens, l ≤ maxLen) ∧ lens[s]? = some l ∧ 0 < l ∧ l ≤ maxLen :=
  ⟨3, [2, 1, 3, 3], [2, 0, 6, 7], 3, 3, by decide +kernel⟩

/-- R120: the example. -/
theorem witness_CodesArePrefixFree : ∃ (maxLen : Nat) (lens codes : List Nat) (s s' l l' c c' : Nat),
    buildCodes maxLen lens = some codes ∧ (∀ k ∈ lens, k ≤ maxLen) ∧ s ≠ s' ∧ lens[s]? = some l ∧ lens[s']? = some l' ∧ 0 < l ∧ 0 < l' ∧ codes[s]? = some c ∧ codes[s']? = some c' :=
  ⟨3, [2, 1, 3, 3], [2, 0, 6, 7], 1, 3, 1, 3, 0, 7, by decide +kernel⟩

/-- R132: the smallest table. -/
theorem witness_TableHoldsExactlyTheCodes : ∃ (n : Nat) (lens codes : List Nat) (t : Trie),
    2 ≤ n ∧ lens.length = n ∧ codes.length = n ∧ compileTable n lens codes = .ok t :=
  ⟨2, [1, 1], [0, 1], { slots := [.leaf 0, .leaf 1], nodes := 0 }, by decide, rfl, rfl, by decide +kernel⟩

/-- R143: the last bit of IN. -/
theorem witness_DecodeSymbolInvertsTheBuilder : ∃ (n maxLen : Nat) (lens codes : List Nat) (t : Trie) (s : State) (v l c : Nat),
    2 ≤ n ∧ lens.length = n ∧ buildCodes maxLen lens = some codes ∧ compileTable n lens codes = .ok t ∧ lens[v]? = some l ∧ 0 < l ∧ codes[v]? = some c ∧ readable s l ∧ bitsAt s (bitPos s.cur) (bitsMsb l c) :=
  ⟨2, 1, [1, 1], [0, 1], { slots := [.leaf 0, .leaf 1], nodes := 0 }, at_ 0 7 (ready [0x80] 0), 1, 1, 1, by decide, rfl, by decide +kernel, by decide +kernel, by decide +kernel, by decide +kernel, by decide +kernel, readable_of (by decide +kernel), bitsAt_of (by decide +kernel)⟩

/-- R133: nineteen codes of length 7 pass the Kraft check and need more nodes than the table has. -/
theorem witness_CompileFailsOnlyForWantOfNodes : ∃ (n maxLen : Nat) (lens codes : List Nat) (t : Trie),
    2 ≤ n ∧ lens.length = n ∧ (∀ l ∈ lens, l ≤ maxLen) ∧ buildCodes maxLen lens = some codes ∧ compileTable n lens codes = .error t := by
  refine ⟨19, 7, List.replicate 19 7, List.range 19, ?_⟩
  have h : (match compileTable 19 (List.replicate 19 7) (List.range 19) with | .ok _ => false | .error _ => true) = true := by decide +kernel
  cases hc : compileTable 19 (List.replicate 19 7) (List.range 19) with
  | ok t => rw [hc] at h; cases h
  | error t => exact ⟨t, by decide, by decide, by decide, by decide +kernel, rfl⟩

/-- R154: HELLO, to the last byte of IN. -/
theorem witness_StoredCopiesItsBytes : ∃ (s : State) (a len : Nat),
    a = alignedOff s.cur ∧ len = le16 s a ∧ s.outBuf.wf = true ∧ s.regs.inLen < 2 ^ s.cfg.addrW ∧ a + 4 + len ≤ s.regs.inLen ∧ len + le16 s (a + 2) = 0xFFFF ∧ s.outPos + len < 2 ^ s.cfg.addrW :=
  ⟨at_ 0 3 (busy [0x01, 0x05, 0x00, 0xFA, 0xFF, 0x48, 0x45, 0x4C, 0x4C, 0x4F] 5), 1, 5, by decide +kernel⟩

/-- V45.2: an empty stored block. -/
theorem witness_StoredCopiesItsBytes_empty : ∃ (s : State) (a len : Nat),
    a = alignedOff s.cur ∧ len = le16 s a ∧ s.outBuf.wf = true ∧ s.regs.inLen < 2 ^ s.cfg.addrW ∧ a + 4 + len ≤ s.regs.inLen ∧ len + le16 s (a + 2) = 0xFFFF ∧ s.outPos + len < 2 ^ s.cfg.addrW :=
  ⟨at_ 0 3 (busy [0x01, 0x00, 0x00, 0xFF, 0xFF] 0), 1, 0, by decide +kernel⟩

/-- R9: OUT_POS may reach 2^ADDR_W - 1. -/
theorem witness_StoredCopiesItsBytes_last : ∃ (s : State) (a len : Nat),
    a = alignedOff s.cur ∧ len = le16 s a ∧ s.outBuf.wf = true ∧ s.regs.inLen < 2 ^ s.cfg.addrW ∧ a + 4 + len ≤ s.regs.inLen ∧ len + le16 s (a + 2) = 0xFFFF ∧ s.outPos + len < 2 ^ s.cfg.addrW :=
  ⟨at_ 0 3 { narrow (busy [0x01, 0x01, 0x00, 0xFE, 0xFF, 0x48] 1) with outPos := 14 }, 1, 1, by decide +kernel⟩

/-- V45.1. -/
theorem witness_StoredBlockErrors_mismatch : ∃ (s : State) (a len nlen : Nat),
    a = alignedOff s.cur ∧ len = le16 s a ∧ nlen = le16 s (a + 2) ∧ s.outBuf.wf = true ∧ s.regs.inLen < 2 ^ s.cfg.addrW ∧ a < 2 ^ s.cfg.addrW ∧ a + 4 ≤ s.regs.inLen ∧ len + nlen ≠ 0xFFFF :=
  ⟨at_ 0 3 (busy [0x01, 0x05, 0x00, 0xFB, 0xFF] 5), 1, 5, 0xFFFB, by decide +kernel⟩

/-- X7b. -/
theorem witness_StoredBlockErrors_short : ∃ (s : State) (a len nlen : Nat),
    a = alignedOff s.cur ∧ len = le16 s a ∧ nlen = le16 s (a + 2) ∧ s.outBuf.wf = true ∧ s.regs.inLen < 2 ^ s.cfg.addrW ∧ a < 2 ^ s.cfg.addrW ∧ a + 4 ≤ s.regs.inLen ∧ len + nlen = 0xFFFF ∧ s.regs.inLen < a + 4 + len ∧ s.outPos + (s.regs.inLen - (a + 4)) < 2 ^ s.cfg.addrW :=
  ⟨at_ 0 3 (busy [0x01, 0x05, 0x00, 0xFA, 0xFF, 0x48, 0x45, 0x4C, 0x4C] 5), 1, 5, 0xFFFA, by decide +kernel⟩

/-- R156: NLEN cut short. -/
theorem witness_StoredBlockErrors_no_fields : ∃ (s : State) (a len nlen : Nat),
    a = alignedOff s.cur ∧ len = le16 s a ∧ nlen = le16 s (a + 2) ∧ s.outBuf.wf = true ∧ s.regs.inLen < 2 ^ s.cfg.addrW ∧ a < 2 ^ s.cfg.addrW ∧ s.regs.inLen < a + 4 :=
  ⟨at_ 0 3 (busy [0x01, 0x05, 0x00, 0xFA] 5), 1, 5, 0xFA, by decide +kernel⟩

/-- P3. -/
theorem witness_DynamicReadsItsHeader_ok : ∃ (s : State) (p f1 f2 f3 : Nat) (lens : Vector (BitVec 3) 19),
    p = bitPos s.cur ∧ f1 = fieldLsb s p 5 ∧ f2 = fieldLsb s (p + 5) 5 ∧ f3 = fieldLsb s (p + 10) 4 ∧ s.regs.inLen < 2 ^ s.cfg.addrW ∧ readable s (14 + 3 * (f3 + 4)) ∧ (∀ j, j < 19 → tabGet lens (clclOrder.getD j 0) 0 = BitVec.ofNat 3 (if j < f3 + 4 then fieldLsb s (p + 14 + 3 * j) 3 else 0)) ∧ (buildTable 7 { s.cl with lens := lens } s.scratch).ok = true :=
  ⟨at_ 0 3 (busy [0x0D, 0x83, 0x05, 0x01, 0x00, 0x00, 0x00, 0x40, 0xB6, 0xF2, 0x7F, 0x84, 0x44, 0xCE, 0x09] 16), 3, 1, 3, 12, #v[0, 0, 1, 0, 0, 0, 0, 0, 0, 0, 0, 0, 0, 0, 0, 0, 2, 0, 2], by decide +kernel, by decide +kernel, by decide +kernel, by decide +kernel, by decide +kernel, readable_of (by decide +kernel), by decide +kernel⟩

/-- V45.8. -/
theorem witness_DynamicReadsItsHeader_no_nodes : ∃ (s : State) (p f1 f2 f3 : Nat) (lens : Vector (BitVec 3) 19),
    p = bitPos s.cur ∧ f1 = fieldLsb s p 5 ∧ f2 = fieldLsb s (p + 5) 5 ∧ f3 = fieldLsb s (p + 10) 4 ∧ s.regs.inLen < 2 ^ s.cfg.addrW ∧ readable s (14 + 3 * (f3 + 4)) ∧ (∀ j, j < 19 → tabGet lens (clclOrder.getD j 0) 0 = BitVec.ofNat 3 (if j < f3 + 4 then fieldLsb s (p + 14 + 3 * j) 3 else 0)) ∧ (buildTable 7 { s.cl with lens := lens } s.scratch).ok = false :=
  ⟨at_ 0 3 (busy [0x05, 0xE0, 0xFF, 0xFF, 0xFF, 0xFF, 0xFF, 0xFF, 0xFF, 0x03] 16), 3, 0, 0, 15, Vector.replicate 19 7, by decide +kernel, by decide +kernel, by decide +kernel, by decide +kernel, by decide +kernel, readable_of (by decide +kernel), by decide +kernel⟩

/-- P3 cut to its first eight bytes, one bit short. -/
theorem witness_DynamicReadsItsHeader_end : ∃ (s : State) (p f1 f2 f3 : Nat),
    p = bitPos s.cur ∧ f1 = fieldLsb s p 5 ∧ f2 = fieldLsb s (p + 5) 5 ∧ f3 = fieldLsb s (p + 10) 4 ∧ s.regs.inLen < 2 ^ s.cfg.addrW ∧ 8 * s.regs.inLen < p + 14 + 3 * (f3 + 4) :=
  ⟨at_ 0 3 (busy [0x0D, 0x83, 0x05, 0x01, 0x00, 0x00, 0x00, 0x40] 16), 3, 1, 3, 12, by decide +kernel⟩

/-- R190: the last byte of OUT. -/
theorem witness_LiteralIsOneSinkWrite_stored : ∃ (s : State) (b : BitVec 9),
    (Instr.lit b).WellFormed ∧ s.outBuf.wf = true ∧ s.outPos + 1 < 2 ^ s.cfg.addrW ∧ s.outPos < s.regs.outCap :=
  ⟨inFixed [] 1, 255, by decide +kernel⟩

/-- R190: OUT is full. -/
theorem witness_LiteralIsOneSinkWrite_dropped : ∃ (s : State) (b : BitVec 9),
    (Instr.lit b).WellFormed ∧ s.outBuf.wf = true ∧ s.outPos + 1 < 2 ^ s.cfg.addrW ∧ s.regs.outCap ≤ s.outPos :=
  ⟨inFixed [] 0, 255, by decide +kernel⟩

/-- R167. -/
theorem witness_EndOfBlockEndsOrReturns_final : ∃ (s : State),
    s.hdr.bfinal = 1 :=
  ⟨{ inFixed [] 0 with hdr := { (inFixed [] 0).hdr with bfinal := 1 } }, rfl⟩

/-- R167. -/
theorem witness_EndOfBlockEndsOrReturns_other : ∃ (s : State),
    s.hdr.bfinal = 0 :=
  ⟨inFixed [] 0, rfl⟩

/-- R110. -/
theorem witness_LengthSymbolsSetMlen_first : ∃ (s : State) (j : Nat) (i : Instr) (extra base x : Nat),
    lengthRows[j]? = some (i, extra, base) ∧ readable s extra ∧ x = fieldLsb s (bitPos s.cur) extra :=
  ⟨inFixed [] 0, 0, .len257, 0, 3, 0, rfl, readable_of (by decide +kernel), by decide +kernel⟩

/-- R110. -/
theorem witness_LengthSymbolsSetMlen_longest_field : ∃ (s : State) (j : Nat) (i : Instr) (extra base x : Nat),
    lengthRows[j]? = some (i, extra, base) ∧ readable s extra ∧ x = fieldLsb s (bitPos s.cur) extra :=
  ⟨inFixed [0x1F] 0, 27, .len284, 5, 227, 31, rfl, readable_of (by decide +kernel), by decide +kernel⟩

/-- R110. -/
theorem witness_LengthSymbolsSetMlen_last : ∃ (s : State) (j : Nat) (i : Instr) (extra base x : Nat),
    lengthRows[j]? = some (i, extra, base) ∧ readable s extra ∧ x = fieldLsb s (bitPos s.cur) extra :=
  ⟨inFixed [] 0, 28, .len285, 0, 258, 0, rfl, readable_of (by decide +kernel), by decide +kernel⟩

/-- R193: the whole of OUT repeats, past OUT_CAP. -/
theorem witness_DistanceSymbolsCopy_nearest : ∃ (s : State) (k : Nat) (i : Instr) (extra base d len : Nat),
    distanceRows[k]? = some (i, extra, base) ∧ readable s extra ∧ d = base + fieldLsb s (bitPos s.cur) extra ∧ len = s.syms.mlen.toNat ∧ s.outBuf.wf = true ∧ d ≤ s.outPos ∧ s.outPos + len < 2 ^ s.cfg.addrW :=
  ⟨{ wrote [0x41] (inFixed [] 4) with syms := { (inFixed [] 0).syms with mlen := 258 } }, 0, .dist0, 0, 1, 1, 258, rfl, readable_of (by decide +kernel), by decide +kernel⟩

/-- V46.9. -/
theorem witness_DistanceSymbolsCopy_farthest : ∃ (s : State) (k : Nat) (i : Instr) (extra base d len : Nat),
    distanceRows[k]? = some (i, extra, base) ∧ readable s extra ∧ d = base + fieldLsb s (bitPos s.cur) extra ∧ len = s.syms.mlen.toNat ∧ s.outBuf.wf = true ∧ d ≤ s.outPos ∧ s.outPos + len < 2 ^ s.cfg.addrW :=
  ⟨{ { inFixed [0xFF, 0x1F] 40000 with syms := { (inFixed [] 0).syms with mlen := 3 } } with outPos := 32768 }, 29, .dist29, 13, 24577, 32768, 3, rfl, readable_of (by decide +kernel), by decide +kernel⟩

/-- V46.4. -/
theorem witness_DistanceBeyondOutputRaises : ∃ (s : State) (k : Nat) (i : Instr) (extra base d : Nat),
    distanceRows[k]? = some (i, extra, base) ∧ readable s extra ∧ d = base + fieldLsb s (bitPos s.cur) extra ∧ s.outPos < d :=
  ⟨wrote [0x41] (inFixed [] 4), 1, .dist1, 0, 2, 2, rfl, readable_of (by decide +kernel), by decide +kernel⟩

/-- R183. -/
theorem witness_ExtraBitsCutShort_length : ∃ (s : State) (j : Nat) (i : Instr) (extra base : Nat),
    s.regs.inLen < 2 ^ s.cfg.addrW ∧ lengthRows[j]? = some (i, extra, base) ∧ extra ≠ 0 ∧ 8 * s.regs.inLen < bitPos s.cur + extra :=
  ⟨at_ 0 4 (inFixed [0xFF] 0), 27, .len284, 5, 227, by decide +kernel, rfl, by decide +kernel⟩

/-- R185. -/
theorem witness_ExtraBitsCutShort_distance : ∃ (s : State) (k : Nat) (i : Instr) (extra base : Nat),
    s.regs.inLen < 2 ^ s.cfg.addrW ∧ distanceRows[k]? = some (i, extra, base) ∧ extra ≠ 0 ∧ 8 * s.regs.inLen < bitPos s.cur + extra :=
  ⟨at_ 0 4 (inFixed [0xFF, 0xFF] 0), 29, .dist29, 13, 24577, by decide +kernel, rfl, by decide +kernel⟩

/-- R163 to R165: one bit short of the shortest. -/
theorem witness_ExtraBitsCutShort_repeats : ∃ (s : State),
    s.regs.inLen < 2 ^ s.cfg.addrW ∧ 8 * s.regs.inLen < bitPos s.cur + 2 ∧ 8 * s.regs.inLen < bitPos s.cur + 3 ∧ 8 * s.regs.inLen < bitPos s.cur + 7 :=
  ⟨at_ 0 7 (inLengths 257 1 0 (busy [0xFF] 0)), by decide +kernel⟩

/-- R162: the last entry. -/
theorem witness_LiteralLengthIsStored : ∃ (s : State) (c : BitVec 5),
    (Instr.clLit c).WellFormed ∧ s.seq.lsI.toNat < 320 :=
  ⟨inLengths 288 32 319 (busy [] 0), 15, by decide +kernel⟩

/-- R163: a run that ends at TOTAL. -/
theorem witness_RepeatPreviousLength_ok : ∃ (s : State) (i r : Nat),
    readable s 2 ∧ i = s.seq.lsI.toNat ∧ r = 3 + fieldLsb s (bitPos s.cur) 2 ∧ seqTotal s ≤ 320 ∧ i ≠ 0 ∧ i + r ≤ seqTotal s :=
  ⟨inLengths 288 32 314 (busy [0b11] 0), 314, 6, readable_of (by decide +kernel), by decide +kernel⟩

/-- R163: no previous length. -/
theorem witness_RepeatPreviousLength_none_before : ∃ (s : State) (i r : Nat),
    readable s 2 ∧ i = s.seq.lsI.toNat ∧ r = 3 + fieldLsb s (bitPos s.cur) 2 ∧ seqTotal s ≤ 320 ∧ i = 0 :=
  ⟨inLengths 257 1 0 (busy [0b00] 0), 0, 3, readable_of (by decide +kernel), by decide +kernel⟩

/-- R163: one past TOTAL. -/
theorem witness_RepeatPreviousLength_past_total : ∃ (s : State) (i r : Nat),
    readable s 2 ∧ i = s.seq.lsI.toNat ∧ r = 3 + fieldLsb s (bitPos s.cur) 2 ∧ seqTotal s ≤ 320 ∧ seqTotal s < i + r :=
  ⟨inLengths 257 1 256 (busy [0b00] 0), 256, 3, readable_of (by decide +kernel), by decide +kernel⟩

/-- R164, R165: at TOTAL, and one past it. -/
theorem witness_RepeatZeroLength_short_ok : ∃ (s : State) (ins : Instr) (extra low i r : Nat),
    ((ins = .repZero ∧ extra = 3 ∧ low = 3) ∨ (ins = .repZeroLong ∧ extra = 7 ∧ low = 11)) ∧ readable s extra ∧ i = s.seq.lsI.toNat ∧ r = low + fieldLsb s (bitPos s.cur) extra ∧ seqTotal s ≤ 320 ∧ i + r ≤ seqTotal s :=
  ⟨inLengths 288 32 310 (busy [0x07] 0), .repZero, 3, 3, 310, 10, by decide +kernel, readable_of (by decide +kernel), by decide +kernel⟩

/-- R164, R165: at TOTAL, and one past it. -/
theorem witness_RepeatZeroLength_short_past : ∃ (s : State) (ins : Instr) (extra low i r : Nat),
    ((ins = .repZero ∧ extra = 3 ∧ low = 3) ∨ (ins = .repZeroLong ∧ extra = 7 ∧ low = 11)) ∧ readable s extra ∧ i = s.seq.lsI.toNat ∧ r = low + fieldLsb s (bitPos s.cur) extra ∧ seqTotal s ≤ 320 ∧ seqTotal s < i + r :=
  ⟨inLengths 288 32 311 (busy [0x07] 0), .repZero, 3, 3, 311, 10, by decide +kernel, readable_of (by decide +kernel), by decide +kernel⟩

/-- R164, R165: at TOTAL, and one past it. -/
theorem witness_RepeatZeroLength_long_ok : ∃ (s : State) (ins : Instr) (extra low i r : Nat),
    ((ins = .repZero ∧ extra = 3 ∧ low = 3) ∨ (ins = .repZeroLong ∧ extra = 7 ∧ low = 11)) ∧ readable s extra ∧ i = s.seq.lsI.toNat ∧ r = low + fieldLsb s (bitPos s.cur) extra ∧ seqTotal s ≤ 320 ∧ i + r ≤ seqTotal s :=
  ⟨inLengths 288 32 182 (busy [0x7F] 0), .repZeroLong, 7, 11, 182, 138, by decide +kernel, readable_of (by decide +kernel), by decide +kernel⟩

/-- R164, R165: at TOTAL, and one past it. -/
theorem witness_RepeatZeroLength_long_past : ∃ (s : State) (ins : Instr) (extra low i r : Nat),
    ((ins = .repZero ∧ extra = 3 ∧ low = 3) ∨ (ins = .repZeroLong ∧ extra = 7 ∧ low = 11)) ∧ readable s extra ∧ i = s.seq.lsI.toNat ∧ r = low + fieldLsb s (bitPos s.cur) extra ∧ seqTotal s ≤ 320 ∧ seqTotal s < i + r :=
  ⟨inLengths 288 32 183 (busy [0x7F] 0), .repZeroLong, 7, 11, 183, 138, by decide +kernel, readable_of (by decide +kernel), by decide +kernel⟩

/-- R166: a complete length sequence; both tables build, the first fails, only the second fails. -/
theorem witness_BlockTablesFromTheSequence : ∃ s u v : State,
    (s.status.busy = true ∧ sequenceDone s = true ∧ (nextOf (engineStep s)).any (fun t => t.loopAt == .symbols) = true) ∧
    (u.status.busy = true ∧ sequenceDone u = true ∧ (nextOf (engineStep u)).any (fun t => t.blk == .error) = true) ∧
    (v.status.busy = true ∧ sequenceDone v = true ∧
      (nextOf (engineStep v)).any (fun t => t.blk == .error && t.ll.lens.toList != v.ll.lens.toList) = true) :=
  ⟨{ inLengths 257 1 258 (busy [] 0) with seq := { lenSeq := Vector.replicate 320 0, lsI := 258 } },
   { inLengths 257 1 258 (busy [] 0) with seq := { lenSeq := Vector.replicate 320 1, lsI := 258 } },
   { inLengths 257 3 260 (busy [] 0) with
     seq := { lenSeq := tabSet (tabSet (tabSet (tabSet (Vector.replicate 320 0) 256 1) 257 1) 258 1) 259 1, lsI := 260 } },
   by decide +kernel, by decide +kernel⟩

/-- R202: the largest start. -/
theorem witness_DecodeStartsARun : ∃ (s : State),
    s.status.busy = false ∧ s.regs.inLen < 2 ^ s.cfg.addrW ∧ s.cur.byteOff < 2 ^ s.cfg.addrW ∧ s.regs.outCap < 2 ^ s.cfg.addrW ∧ s.outPos < 2 ^ s.cfg.addrW ∧ buffersOverlap s = false :=
  ⟨{ ready [0x07] 4 with outPos := 2 ^ 32 - 1, cur := { byteOff := 2 ^ 32 - 1, bitOff := 7 } }, by decide +kernel⟩

/-- R202 (b). -/
theorem witness_DecodeRefusals_width : ∃ (s : State),
    s.status.busy = false ∧ (2 ^ s.cfg.addrW ≤ s.regs.inLen ∨ 2 ^ s.cfg.addrW ≤ s.cur.byteOff ∨ 2 ^ s.cfg.addrW ≤ s.regs.outCap ∨ 2 ^ s.cfg.addrW ≤ s.outPos) :=
  ⟨{ ready [0x07] 4 with outPos := 2 ^ 32 }, by decide +kernel⟩

/-- R202 (c): one address in common. -/
theorem witness_DecodeRefusals_overlap : ∃ (s : State) (a : Nat),
    s.status.busy = false ∧ launchWidthOk s = true ∧ inside s.regs.inBase s.regs.inLen a ∧ inside s.regs.outBase s.regs.outCap a :=
  ⟨{ ready [0x07] 4 with regs := { inLen := 4, outCap := 4, inBase := 0, outBase := 3 } }, 3, by decide +kernel, by decide +kernel, by unfold inside; decide +kernel, by unfold inside; decide +kernel⟩

/-- R227. -/
theorem witness_RaisedErrorIsTaken : ∃ (m : M Unit) (e : ErrKind) (s t : State),
    m s = .error (.raised e) t :=
  ⟨raise .endOfInput, .endOfInput, State.reset, State.reset, rfl⟩

/-- R142, R227: IN ends where a literal/length code should begin. -/
theorem witness_RaisedErrorIsTaken_fetch : ∃ (e : ErrKind) (s t : State),
    s.status.busy = true ∧ sequenceDone s = false ∧ fetch s = .error (.raised e) t :=
  ⟨.endOfInput, inFixed [] 0, inFixed [] 0, rfl, rfl, rfl⟩

/-- R100. -/
theorem witness_RaisedErrorIsTaken_readBit : ∃ s : State, s.regs.inLen ≤ s.cur.byteOff := ⟨busy [] 0, by decide⟩

/-- R9. -/
theorem witness_OverflowFaults_literal : ∃ (s : State),
    s.regs.inLen < 2 ^ s.cfg.addrW ∧ 2 ^ s.cfg.addrW ≤ s.outPos + 1 :=
  ⟨{ narrow (inFixed [] 4) with outPos := 15 }, by decide +kernel⟩

/-- R9. -/
theorem witness_OverflowFaults_distance : ∃ (s : State) (k : Nat) (i : Instr) (extra base d : Nat),
    s.regs.inLen < 2 ^ s.cfg.addrW ∧ distanceRows[k]? = some (i, extra, base) ∧ readable s extra ∧ d = base + fieldLsb s (bitPos s.cur) extra ∧ d ≤ s.outPos ∧ s.syms.mlen ≠ 0 ∧ 2 ^ s.cfg.addrW ≤ s.outPos + s.syms.mlen.toNat :=
  ⟨{ narrow (inFixed [] 4) with outPos := 13, syms := { (inFixed [] 0).syms with mlen := 3 } }, 0, .dist0, 0, 1, 1, by decide +kernel, rfl, readable_of (by decide +kernel), by decide +kernel⟩

/-- R9. -/
theorem witness_OverflowFaults_stored : ∃ (s : State) (a : Nat),
    s.regs.inLen < 2 ^ s.cfg.addrW ∧ a = alignedOff s.cur ∧ a + 4 + le16 s a ≤ s.regs.inLen ∧ le16 s a + le16 s (a + 2) = 0xFFFF ∧ le16 s a ≠ 0 ∧ 2 ^ s.cfg.addrW ≤ s.outPos + le16 s a :=
  ⟨{ narrow (at_ 0 3 (busy [0x01, 0x01, 0x00, 0xFE, 0xFF, 0x48] 1)) with outPos := 15 }, 1, by decide +kernel⟩

/-- R9. -/
theorem witness_OverflowFaults_align : ∃ (s : State),
    s.regs.inLen < 2 ^ s.cfg.addrW ∧ s.cur.bitOff ≠ 0 ∧ 2 ^ s.cfg.addrW ≤ s.cur.byteOff + 1 :=
  ⟨at_ 15 3 (narrow (busy [] 0)), by decide +kernel⟩

/-- An element with a next state that wrote OUT. -/
theorem witness_InstructionFrame : ∃ (i : Instr) (s t : State), exec i s = .next t ∧ s.outBuf.wf = true := by
  obtain ⟨t, h, -⟩ := next_of (fun _ => true) (o := exec (.lit 65) (inFixed [] 1)) (by decide +kernel)
  exact ⟨_, _, t, h, by decide +kernel⟩

theorem witness_CursorNeverMovesBack_step : ∃ s t : State, engineStep s = .next t := by
  obtain ⟨t, h, -⟩ := next_of (fun _ => true) (o := engineStep (busy [0x03, 0x00] 0)) (by decide +kernel)
  exact ⟨_, t, h⟩

theorem witness_CursorNeverMovesBack_run : ∃ s t : State, runDecode s = .next t := by
  obtain ⟨t, h, -⟩ := next_of (fun _ => true) (o := runDecode (ready [0x03, 0x00] 0)) (by decide +kernel)
  exact ⟨_, t, h⟩

/-- R103, R107: the meaning of a stored block aligns the cursor from inside the last byte. -/
theorem witness_CursorNeverMovesBack_exec : ∃ (i : Instr) (s t : State), exec i s = .next t := by
  obtain ⟨t, h, -⟩ := next_of (fun _ => true) (o := exec (.stored true) (at_ 0 3 (busy [0x01] 0))) (by decide +kernel)
  exact ⟨_, _, t, h⟩

/-- X7a and V45.11: IN ends inside a code, and before the start. -/
theorem witness_EndOfInputCursor :
    (∃ s t : State, runDecode s = .next t ∧ (decide (s.cur.byteOff < s.regs.inLen) && decide (t.status.errKind = errCode .endOfInput)) = true) ∧
    (∃ s t : State, runDecode s = .next t ∧ (decide (s.regs.inLen ≤ s.cur.byteOff) && decide (t.status.errKind = errCode .endOfInput)) = true) := by
  constructor
  · let s := ready [0x73, 0x74, 0x74, 0x74, 0x04] 4
    obtain ⟨t, h, h2⟩ := next_of (fun t => decide (s.cur.byteOff < s.regs.inLen) && decide (t.status.errKind = errCode .endOfInput))
      (o := runDecode s) (by decide +kernel)
    exact ⟨s, t, h, h2⟩
  · let s := ready [] 4
    obtain ⟨t, h, h2⟩ := next_of (fun t => decide (s.regs.inLen ≤ s.cur.byteOff) && decide (t.status.errKind = errCode .endOfInput))
      (o := runDecode s) (by decide +kernel)
    exact ⟨s, t, h, h2⟩

/-- P4 and X3: a byte dropped, and none. -/
theorem witness_TruncatedMeansDropped :
    (∃ s t : State, runDecode s = .next t ∧ (decide (s.outPos ≤ s.regs.outCap) && t.status.truncated) = true) ∧
    (∃ s t : State, runDecode s = .next t ∧ (decide (s.outPos ≤ s.regs.outCap) && !t.status.truncated) = true) := by
  constructor
  · let s := ready [0x73, 0x74, 0x74, 0x74, 0x04, 0x00] 3
    obtain ⟨t, h, h2⟩ := next_of (fun t => decide (s.outPos ≤ s.regs.outCap) && t.status.truncated) (o := runDecode s) (by decide +kernel)
    exact ⟨s, t, h, h2⟩
  · let s := ready [0x73, 0x74, 0x74, 0x74, 0x04, 0x00] 4
    obtain ⟨t, h, h2⟩ := next_of (fun t => decide (s.outPos ≤ s.regs.outCap) && !t.status.truncated) (o := runDecode s) (by decide +kernel)
    exact ⟨s, t, h, h2⟩

theorem witness_DecodeWritesOnlyItsOutput : ∃ s t : State, runDecode s = .next t ∧ (s.outBuf.wf && decide (s.outPos < t.outPos)) = true := by
  let s := wrote [1, 2] (ready [0x73, 0x74, 0x74, 0x74, 0x04, 0x00] 5)
  obtain ⟨t, h, h2⟩ := next_of (fun t => s.outBuf.wf && decide (s.outPos < t.outPos)) (o := runDecode s) (by decide +kernel)
  exact ⟨s, t, h, h2⟩

/-- R150: from a header to a fixed block, from a fixed block to DONE and to the next header, from a dynamic block to itself. -/
theorem witness_BlockStateTransitions :
    (∃ s t : State, engineStep s = .next t ∧
      (s.status.busy && decide (s.blk = .readBlockHeader) && decide (t.blk = .fixedBlock)) = true) ∧
    (∃ s t : State, engineStep s = .next t ∧ (s.status.busy && decide (s.blk = .fixedBlock) && decide (t.blk = .done)) = true) ∧
    (∃ s t : State, engineStep s = .next t ∧
      (s.status.busy && decide (s.blk = .fixedBlock) && decide (t.blk = .readBlockHeader)) = true) ∧
    (∃ s t : State, engineStep s = .next t ∧
      (s.status.busy && decide (s.blk = .dynamicBlock) && decide (t.blk = .dynamicBlock)) = true) := by
  refine ⟨?_, ?_, ?_, ?_⟩
  · let s := busy [0x03, 0x00] 0
    obtain ⟨t, h, h2⟩ := next_of (fun t => s.status.busy && decide (s.blk = .readBlockHeader) && decide (t.blk = .fixedBlock))
      (o := engineStep s) (by decide +kernel)
    exact ⟨s, t, h, h2⟩
  · let s : State := { at_ 0 3 (inFixed [0x03, 0x00] 0) with hdr := { (inFixed [] 0).hdr with bfinal := 1 } }
    obtain ⟨t, h, h2⟩ := next_of (fun t => s.status.busy && decide (s.blk = .fixedBlock) && decide (t.blk = .done))
      (o := engineStep s) (by decide +kernel)
    exact ⟨s, t, h, h2⟩
  · let s := at_ 0 3 (inFixed [0x02, 0x00] 0)
    obtain ⟨t, h, h2⟩ := next_of (fun t => s.status.busy && decide (s.blk = .fixedBlock) && decide (t.blk = .readBlockHeader))
      (o := engineStep s) (by decide +kernel)
    exact ⟨s, t, h, h2⟩
  · let s : State := { inLengths 257 1 0 (busy [0x00] 0) with cl := loadClHuff (busy [0x00] 0) }
    obtain ⟨t, h, h2⟩ := next_of (fun t => s.status.busy && decide (s.blk = .dynamicBlock) && decide (t.blk = .dynamicBlock))
      (o := engineStep s) (by decide +kernel)
    exact ⟨s, t, h, h2⟩

theorem witness_IdleEngineDoesNothing : ∃ s : State, s.status.busy = false ∧ s.hostQ = [] := ⟨State.reset, rfl, rfl⟩

/-- Three states of the invariant that step on: after reset with START pending, in a fixed block, and in a length sequence. -/
theorem witness_StepKeepsInvariant :
    (∃ s t : State, MachineInv s ∧ step s = .next t ∧ t.status.busy = true) ∧
    (∃ s t : State, MachineInv s ∧ step s = .next t ∧ t.outPos = 1) ∧
    (∃ s t : State, MachineInv s ∧ step s = .next t ∧ t.seq.lsI = 1) := by
  refine ⟨?_, ?_, ?_⟩
  · let s : State := { ready [0x07] 4 with hostQ := [.access (.write .ctrl 1)] }
    obtain ⟨t, h, h2⟩ := next_of (fun t => t.status.busy) (o := step s) (by decide +kernel)
    exact ⟨s, t, invariant_of (by decide +kernel), h, h2⟩
  · let s := at_ 0 3 (inFixed [0x73, 0x74, 0x74, 0x74, 0x04, 0x00] 4)
    obtain ⟨t, h, h2⟩ := next_of (fun t => decide (t.outPos = 1)) (o := step s) (by decide +kernel)
    exact ⟨s, t, invariant_of (by decide +kernel), h, by simpa using h2⟩
  · let s : State := { inLengths 257 1 0 (busy [0x00] 0) with cl := loadClHuff (busy [0x00] 0) }
    obtain ⟨t, h, h2⟩ := next_of (fun t => decide (t.seq.lsI = 1)) (o := step s) (by decide +kernel)
    exact ⟨s, t, invariant_of (by decide +kernel), h, by simpa using h2⟩

theorem witness_EveryDecodeEnds : ∃ s : State, MachineInv s ∧ s.status.busy = false ∧ buffersOverlap s = false ∧
    s.outPos + 258 * (8 * s.regs.inLen) < 2 ^ s.cfg.addrW :=
  ⟨ready [0x73, 0x74, 0x72, 0x86, 0x20, 0x00] 16, invariant_of (by decide +kernel), rfl, by decide +kernel⟩

/-- R9: a state of the invariant in which the engine does stop. -/
theorem witness_OnlyOutputOverflowStopsTheEngine : ∃ s : State, MachineInv s ∧ nextOf (engineStep s) = none :=
  ⟨{ narrow (at_ 0 3 (inFixed [0x73, 0x74, 0x74, 0x74, 0x04, 0x00] 4)) with outPos := 15, regs := { (ready [] 4).regs with inLen := 6, outBase := 0 } },
   invariant_of (by decide +kernel), by decide +kernel⟩

/-- R45: after reset, and after a failed DECODE that has left its registers. -/
theorem witness_SessionCarriesNothingOver : ∃ s t : State, sameSetup s t ∧ s.status.busy = false ∧ t.status.busy = false ∧ s ≠ t :=
  ⟨ready [0x03, 0x00] 4,
   { ready [0x03, 0x00] 4 with
     blk := .error
     status := { busy := false, done := true, errKind := 2, truncated := true }
     syms := { sym := 286, dsym := 0, mlen := 3, mdist := 0, tpos := 5, copyLeft := 0 }
     cl := loadClHuff (ready [] 0) },
   ⟨rfl, rfl, rfl, rfl, rfl, rfl⟩, rfl, rfl, by
     intro h
     have := congrArg (fun s : State => s.syms.sym) h
     exact absurd this (by decide +kernel)⟩

theorem witness_OnlyInputBelowLengthIsRead : ∃ (s : State) (m : Memory), (∀ a, a < s.regs.inLen → m.read a = s.inBuf.read a) ∧ m ≠ s.inBuf :=
  ⟨busy [0x03, 0x00] 0, bytes [0x03, 0x00, 0x55], by decide +kernel⟩

theorem witness_OutputPastCapacityIsUnobservable : ∃ (s : State) (m : Memory), s.outBuf.wf = true ∧ m.wf = true ∧
    (∀ a, a < s.regs.outCap → m.read a = s.outBuf.read a) ∧ m ≠ s.outBuf :=
  ⟨wrote [1, 2] (inFixed [0x00] 2), bytes [1, 2, 3], by decide +kernel⟩

/-- R254: while BUSY. -/
theorem witness_StatusIsReadable : ∃ (s : State) (q : List HostOp),
    s.status.busy = true ∧ s.hostQ = .access (.read .status) :: q :=
  ⟨{ busy [] 0 with hostQ := [.access (.read .status)] }, [], rfl, rfl⟩

/-- R201. -/
theorem witness_AccessWhileBusyIsRefused_start : ∃ (s : State) (a : HostAccess) (q : List HostOp) (v : Data),
    s.status.busy = true ∧ s.hostQ = .access a :: q ∧ a = .write .ctrl v ∧ v.getLsbD 0 = true :=
  ⟨{ busy [] 0 with hostQ := [.access (.write .ctrl 1)] }, .write .ctrl 1, [], 1, rfl, rfl, rfl, by decide⟩

/-- R254. -/
theorem witness_AccessWhileBusyIsRefused_ctrl_0 : ∃ (s : State) (a : HostAccess) (q : List HostOp),
    s.status.busy = true ∧ s.hostQ = .access a :: q ∧ a ≠ .read .status ∧ (∀ v, a = .write .ctrl v → v.getLsbD 0 = false) :=
  ⟨{ busy [] 0 with hostQ := [.access (.write .ctrl 0)] }, .write .ctrl 0, [], rfl, rfl, by decide, fun v h => by cases h; decide⟩

/-- R254. -/
theorem witness_AccessWhileBusyIsRefused_in : ∃ (s : State) (a : HostAccess) (q : List HostOp),
    s.status.busy = true ∧ s.hostQ = .access a :: q ∧ a ≠ .read .status ∧ (∀ v, a = .write .ctrl v → v.getLsbD 0 = false) :=
  ⟨{ busy [] 0 with hostQ := [.access (.writeIn 0 1)] }, .writeIn 0 1, [], rfl, rfl, by decide, fun v h => by cases h⟩

/-- R254. -/
theorem witness_AccessWhileBusyIsRefused_out : ∃ (s : State) (a : HostAccess) (q : List HostOp),
    s.status.busy = true ∧ s.hostQ = .access a :: q ∧ a ≠ .read .status ∧ (∀ v, a = .write .ctrl v → v.getLsbD 0 = false) :=
  ⟨{ busy [] 0 with hostQ := [.access (.readOut 0)] }, .readOut 0, [], rfl, rfl, by decide, fun v h => by cases h⟩

/-- R254. -/
theorem witness_AccessWhileBusyIsRefused_register : ∃ (s : State) (a : HostAccess) (q : List HostOp),
    s.status.busy = true ∧ s.hostQ = .access a :: q ∧ a ≠ .read .status ∧ (∀ v, a = .write .ctrl v → v.getLsbD 0 = false) :=
  ⟨{ busy [] 0 with hostQ := [.access (.write .outPos 1)] }, .write .outPos 1, [], rfl, rfl, by decide, fun v h => by cases h⟩

/-- R21. -/
theorem witness_RegistersReadBack_ctrl : ∃ (s : State) (r : HostReg) (v : Data) (q : List HostOp),
    s.status.busy = false ∧ s.hostQ = .access (.write r v) :: .access (.read r) :: q ∧ (r = .ctrl → v.getLsbD 0 = false) :=
  ⟨{ ready [] 0 with hostQ := [.access (.write .ctrl 2), .access (.read .ctrl)] }, .ctrl, 2, [], rfl, rfl, by decide⟩

/-- R21. -/
theorem witness_RegistersReadBack_status : ∃ (s : State) (r : HostReg) (v : Data) (q : List HostOp),
    s.status.busy = false ∧ s.hostQ = .access (.write r v) :: .access (.read r) :: q ∧ (r = .ctrl → v.getLsbD 0 = false) :=
  ⟨{ ready [] 0 with hostQ := [.access (.write .status 0xFFFFFFFF), .access (.read .status)] }, .status, 0xFFFFFFFF, [], rfl, rfl, by decide⟩

/-- R21. -/
theorem witness_RegistersReadBack_bitOff : ∃ (s : State) (r : HostReg) (v : Data) (q : List HostOp),
    s.status.busy = false ∧ s.hostQ = .access (.write r v) :: .access (.read r) :: q ∧ (r = .ctrl → v.getLsbD 0 = false) :=
  ⟨{ ready [] 0 with hostQ := [.access (.write .bitOff 0xFFFFFFFF), .access (.read .bitOff)] }, .bitOff, 0xFFFFFFFF, [], rfl, rfl, by decide⟩

/-- R21. -/
theorem witness_RegistersReadBack_outBase : ∃ (s : State) (r : HostReg) (v : Data) (q : List HostOp),
    s.status.busy = false ∧ s.hostQ = .access (.write r v) :: .access (.read r) :: q ∧ (r = .ctrl → v.getLsbD 0 = false) :=
  ⟨{ ready [] 0 with hostQ := [.access (.write .outBase 7), .access (.read .outBase)] }, .outBase, 7, [], rfl, rfl, by decide⟩

/-- A reset in the middle of a DECODE (ResetKeepsTheBuffers). -/
theorem witness_ResetKeepsTheBuffers : ∃ (s : State) (q : List HostOp), s.hostQ = .reset :: q ∧ s.status.busy = true :=
  ⟨{ busy [0x07] 0 with hostQ := [.reset] }, [], rfl, rfl⟩

/-- R252. -/
theorem witness_PollWaitsForDone_done : ∃ (s : State) (q : List HostOp),
    s.hostQ = .pollDone :: q ∧ s.status.done = true :=
  ⟨{ ready [] 0 with hostQ := [.pollDone], status := { busy := false, done := true, errKind := 0, truncated := false } }, [], rfl, rfl⟩

/-- R252. -/
theorem witness_PollWaitsForDone_running : ∃ (s : State) (q : List HostOp),
    s.hostQ = .pollDone :: q ∧ s.status.done = false :=
  ⟨{ busy [0x07] 0 with hostQ := [.pollDone] }, [], rfl, rfl⟩

/-- R252 (1). -/
theorem witness_HostReachesTheBuffers_writeIn : ∃ (s : State) (o : Nat) (v : Byte) (q : List HostOp),
    s.status.busy = false ∧ s.hostQ = .access (.writeIn o v) :: q ∧ s.inBuf.wf = true :=
  ⟨{ ready [0x07] 0 with hostQ := [.access (.writeIn 0 0)] }, 0, 0, [], by decide +kernel⟩

/-- R44. -/
theorem witness_HostReachesTheBuffers_writeOut : ∃ (s : State) (o : Nat) (v : Byte) (q : List HostOp),
    s.status.busy = false ∧ s.hostQ = .access (.writeOut o v) :: q ∧ s.outBuf.wf = true :=
  ⟨{ ready [] 4 with hostQ := [.access (.writeOut 3 0x41)] }, 3, 0x41, [], by decide +kernel⟩

/-- R44. -/
theorem witness_HostReachesTheBuffers_readIn : ∃ (s : State) (o : Nat) (q : List HostOp),
    s.status.busy = false ∧ s.hostQ = .access (.readIn o) :: q :=
  ⟨{ ready [0x07] 0 with hostQ := [.access (.readIn 0)] }, 0, [], rfl, rfl⟩

/-- R206. -/
theorem witness_HostReachesTheBuffers_readOut : ∃ (s : State) (o : Nat) (q : List HostOp),
    s.status.busy = false ∧ s.hostQ = .access (.readOut o) :: q :=
  ⟨{ ready [] 4 with hostQ := [.access (.readOut 0)] }, 0, [], rfl, rfl⟩

/-- Two engines: the first steps, and the second's OUT is the first's. -/
def twoEngines : Platform :=
  { engines := [{ ready [0x07] 4 with hostQ := [.access (.write .ctrl 1)] },
      { ready [0x07] 4 with regs := { inLen := 1, outCap := 4, inBase := 0x20000, outBase := 0x10003 } }] }

theorem witness_EnginesAreIndependent_step : ∃ (p p' : Platform) (k : Nat), p.stepOf k = .next p' := by
  obtain ⟨t, h, -⟩ := next_of (fun _ => true) (o := Platform.stepOf { engines := [busy [0x07] 0, State.reset] } 0) (by decide +kernel)
  exact ⟨_, t, 0, h⟩

/-- R235: the buffers share the last address of the first's OUT. -/
theorem witness_EnginesAreIndependent_clash : ∃ (p : Platform) (k : Nat) (s t u : State) (j a : Nat),
    p.engines[k]? = some s ∧ j ≠ k ∧ p.engines[j]? = some u ∧ s.status.busy = false ∧ step s = .next t ∧ t.status.busy = true ∧
    inside t.regs.outBase t.regs.outCap a ∧ inside u.regs.outBase u.regs.outCap a := by
  let s : State := { ready [0x07] 4 with hostQ := [.access (.write .ctrl 1)] }
  obtain ⟨t, h, h2⟩ := next_of (fun t => t.status.busy && decide (t.regs.outBase ≤ 0x10003) && decide (0x10003 < t.regs.outBase + t.regs.outCap))
    (o := step s) (by decide +kernel)
  simp only [Bool.and_eq_true, decide_eq_true_eq] at h2
  exact ⟨twoEngines, 0, s, t, _, 1, 0x10003, rfl, by decide, rfl, rfl, h, h2.1.1, ⟨h2.1.2, h2.2⟩, by unfold inside; decide +kernel⟩

end Sys2Proof.Tests
end

section
/-! SUPPORT. Every instruction's meaning by the format it is read in: thirteen meanings stand for all 74 rows. -/

namespace Sys2Proof.Machine

/-- What the instructions of a format mean. The length symbols share one meaning, and so do the distance symbols (R183, R185). -/
inductive Meaning : Format → (State → Host.Outcome State Fault Refusal) → Prop where
  | stored (b : Bool) : Meaning .blockHeader (execStored b)
  | fixed (b : Bool) : Meaning .blockHeader (execFixed b)
  | dynamic (b : Bool) : Meaning .blockHeader (execDynamic b)
  | reserved (b : Bool) : Meaning .blockHeader (execReserved b)
  | lit (sym : BitVec 9) : Meaning .litlenSymbol (execLit sym)
  | eob : Meaning .litlenSymbol execEob
  | length (j : Nat) : Meaning .litlenSymbol (finish (copyLength j))
  | distance (k : Nat) : Meaning .distSymbol (finish (copyDistance k))
  | clLit (c : BitVec 5) : Meaning .clSymbol (execClLit c)
  | repPrev : Meaning .clSymbol execRepPrev
  | repZero : Meaning .clSymbol execRepZero
  | repZeroLong : Meaning .clSymbol execRepZeroLong
  | decode : Meaning .hostCommand execDecode

theorem meaning_of_length {i : Instr} (hf : (encode i).format = .litlenSymbol)
    (h : exec i = finish (copyLength ((encode i).value - 257))) : Meaning (encode i).format (exec i) :=
  hf ▸ h ▸ .length _

theorem meaning_of_distance {i : Instr} (hf : (encode i).format = .distSymbol)
    (h : exec i = finish (copyDistance (encode i).value)) : Meaning (encode i).format (exec i) :=
  hf ▸ h ▸ .distance _

theorem exec_meaning (i : Instr) : Meaning (encode i).format (exec i) := by
  cases i with
  | stored b => exact .stored b
  | fixed b => exact .fixed b
  | dynamic b => exact .dynamic b
  | reserved b => exact .reserved b
  | lit sym => exact .lit sym
  | eob => exact .eob
  | clLit c => exact .clLit c
  | repPrev => exact .repPrev
  | repZero => exact .repZero
  | repZeroLong => exact .repZeroLong
  | decode => exact .decode
  | len257 | len258 | len259 | len260 | len261 | len262 | len263 | len264 | len265 | len266 | len267 | len268 | len269 | len270
  | len271 | len272 | len273 | len274 | len275 | len276 | len277 | len278 | len279 | len280 | len281 | len282 | len283 | len284
  | len285 | invalid286 | invalid287 => exact meaning_of_length rfl rfl
  | _ => exact meaning_of_distance rfl rfl

/-- What a format decodes to is an instruction of that format (R91). -/
theorem decode_format {f : Format} {v : Nat} {i : Instr} (h : decode f v = .ok i) : (encode i).format = f := by
  have hlitlen : ∀ i ∈ litlenFrom256, (encode i).format = .litlenSymbol := by decide
  have hdist : ∀ i ∈ distFrom0, (encode i).format = .distSymbol := by decide
  unfold decode at h
  split at h
  · cases h
  · cases f with
    | blockHeader =>
      simp only [Except.ok.injEq, decodeHeader] at h
      split at h <;> subst h <;> rfl
    | litlenSymbol =>
      simp only [decodeLitlen] at h
      split at h
      · cases h; rfl
      · split at h <;> cases h
        exact hlitlen _ (List.mem_of_getElem? ‹_›)
    | distSymbol =>
      simp only [decodeDist] at h
      split at h <;> cases h
      exact hdist _ (List.mem_of_getElem? ‹_›)
    | clSymbol =>
      simp only [decodeCl] at h
      split_ifs at h <;> cases h <;> rfl
    | hostCommand =>
      dsimp only at h
      split at h <;> cases h
      rfl

end Sys2Proof.Machine
end

section
/-! SUPPORT. Every table the compiler leaves, finished or not, points to its own nodes and holds symbols of its alphabet (spec R130,
R136 (a)). -/

namespace Sys2Proof.Machine

theorem slotOk_mono {n p q : Nat} (h : p ≤ q) {sl : Slot} (hs : slotOk n p sl = true) : slotOk n q sl = true := by
  cases sl with
  | empty => rfl
  | leaf s => exact hs
  | node k =>
    simp only [slotOk, Bool.and_eq_true, decide_eq_true_eq] at hs ⊢
    omega

theorem trieOk_iff {n nodes : Nat} {t : List Slot} :
    trieOk n nodes t = true ↔ nodes ≤ n - 2 ∧ ∀ sl ∈ t, slotOk n nodes sl = true := by
  simp [trieOk]

/-- A slot written, and perhaps a node allocated. -/
theorem trieOk_set {n p q : Nat} {t : List Slot} {sl : Slot} (ht : trieOk n p t = true) (hpq : p ≤ q) (hq : q ≤ n - 2)
    (hs : slotOk n q sl = true) (i : Nat) : trieOk n q (t.set i sl) = true := by
  rw [trieOk_iff] at ht ⊢
  refine ⟨hq, fun x hx => ?_⟩
  rcases List.mem_or_eq_of_mem_set hx with hm | rfl
  · exact slotOk_mono hpq (ht.2 x hm)
  · exact hs

theorem trieOk_replicate_empty (n m : Nat) : trieOk n 0 (List.replicate m .empty) = true :=
  trieOk_iff.2 ⟨Nat.zero_le _, fun sl hsl => by rw [List.eq_of_mem_replicate hsl]; rfl⟩

/-- A table under construction for an alphabet of `n` symbols. -/
structure Trie.Sound (n : Nat) (t : Trie) : Prop where
  length : t.slots.length = 2 * (n - 1)
  ok : trieOk n t.nodes t.slots = true

/-- The table as it stands, whether the compiler went on or stopped. -/
def trieOf : Except Trie Trie → Trie
  | .ok t => t
  | .error t => t

theorem emptyTrie_sound (n : Nat) : (emptyTrie n).Sound n := ⟨by simp [emptyTrie], trieOk_replicate_empty n _⟩

theorem insertCode_sound {n s : Nat} (hs : s < n) (code m k : Nat) {t : Trie} (ht : t.Sound n) :
    (trieOf (insertCode n s code m k t)).Sound n := by
  induction m generalizing k t with
  | zero => exact ht
  | succ m ih =>
    have hn := (trieOk_iff.1 ht.ok).1
    unfold insertCode
    dsimp only
    split
    · exact ⟨by simp [trieOf, ht.length], trieOk_set ht.ok le_rfl hn (by simp [slotOk, hs]) _⟩
    · exact ht
    · split
      · exact ht
      · refine ih _ ⟨by simp [ht.length], trieOk_set ht.ok (Nat.le_succ _) (by omega) (by simp [slotOk]) _⟩
    · exact ih _ ht
    · exact ht

theorem insertFrom_sound {n s : Nat} (lens codes : List Nat) (hs : s + lens.length ≤ n) {t : Trie} (ht : t.Sound n) :
    (trieOf (insertFrom n s lens codes t)).Sound n := by
  induction lens generalizing s codes t with
  | nil => simpa [insertFrom, trieOf] using ht
  | cons l lens ih =>
    cases codes with
    | nil => simpa [insertFrom, trieOf] using ht
    | cons c codes =>
      rw [List.length_cons] at hs
      have hc := insertCode_sound (s := s) (by omega) c l 0 ht
      unfold insertFrom
      split
      · rename_i t' he
        rw [he] at hc
        exact ih codes (by omega) hc
      · rename_i t' he
        rw [he] at hc
        exact hc

theorem compileTable_sound {n : Nat} (lens codes : List Nat) (hl : lens.length ≤ n) :
    (trieOf (compileTable n lens codes)).Sound n :=
  insertFrom_sound lens codes (by omega) (emptyTrie_sound n)

theorem length_lensOf {n lenW codeW : Nat} (h : Huff n lenW codeW) : (lensOf h).length = n := by simp [lensOf]

/-- The table and the node counter that a compiled alphabet's registers hold. -/
theorem trieOk_registers {n : Nat} (hn : n ≤ 512) {t : Trie} (ht : t.Sound n) :
    trieOk n (BitVec.ofNat 9 t.nodes).toNat (tabOfList (2 * (n - 1)) t.slots .empty).toList = true := by
  have hle := (trieOk_iff.1 ht.ok).1
  rw [toList_tabOfList_of_length ht.length, BitVec.toNat_ofNat, Nat.mod_eq_of_lt]
  · exact ht.ok
  · by_cases h0 : n = 0 <;> omega

/-- R130, R136 (a): building a table leaves one that stays within its alphabet. -/
theorem buildTable_trieOk {n lenW codeW : Nat} (hn : n ≤ 512) (maxLen : Nat) {h : Huff n lenW codeW} (sc : Scratch)
    (ht : trieOk n h.nodes.toNat h.trie.toList = true) :
    trieOk n (buildTable maxLen h sc).huff.nodes.toNat (buildTable maxLen h sc).huff.trie.toList = true := by
  have hc := compileTable_sound (lensOf h) (assignAll maxLen (lensOf h)).1 (length_lensOf h).le
  unfold buildTable
  dsimp only
  split
  · split
    · rename_i t he
      rw [he] at hc
      exact trieOk_registers hn hc
    · rename_i t he
      rw [he] at hc
      exact trieOk_registers hn hc
  · exact ht

/-- R130: no leaf of the table is outside the alphabet. -/
def LeavesBelow (n : Nat) (t : List Slot) : Prop := ∀ v, Slot.leaf v ∈ t → v < n

theorem leavesBelow_of_trieOk {n nodes : Nat} {t : List Slot} (h : trieOk n nodes t = true) : LeavesBelow n t := fun v hv => by
  simpa [slotOk] using (trieOk_iff.1 h).2 _ hv

theorem leavesBelow_of_raw (n m : Nat) (raw : List Nat) :
    LeavesBelow n (tabOfList m (raw.map (slotOfRaw n)) .empty).toList := by
  intro v hv
  rw [toList_tabOfList] at hv
  rcases List.mem_append.1 (List.mem_of_mem_take hv) with hm | hm
  · obtain ⟨r, -, hr⟩ := List.mem_map.1 hm
    unfold slotOfRaw at hr
    split at hr
    · cases hr
    · split at hr <;> cases hr
      assumption
  · cases List.eq_of_mem_replicate hm

theorem LeavesBelow.getD {n : Nat} {t : List Slot} (h : LeavesBelow n t) {i v : Nat} (hv : t.getD i .empty = .leaf v) : v < n := by
  rw [List.getD_eq_getElem?_getD] at hv
  cases hi : t[i]? with
  | none => simp [hi] at hv
  | some sl =>
    simp only [hi, Option.getD_some] at hv
    exact h v (hv ▸ List.mem_of_getElem? hi)

end Sys2Proof.Machine
end

section
/-! SUPPORT. The invariant in two parts: what every point of every element keeps, and what speaks of STATE and the loop position; and
how an element may end from a state of the invariant. -/

namespace Sys2Proof.Machine

/-! ## The two parts of the invariant -/

/-- The part of the invariant that holds at every point of an element: the buffers, the tables, the widths. -/
structure StoreOk (s : State) : Prop where
  memory : memoryOk s = true
  tables : tablesOk s = true
  widths : widthsOk s = true

/-- The part of the invariant that speaks of STATE and the loop position, which holds between elements. -/
structure ControlOk (s : State) : Prop where
  session : sessionOk s = true
  sequence : sequenceOk s = true
  copy : copyOk s = true

theorem machineInv_iff {s : State} : MachineInv s ↔ StoreOk s ∧ ControlOk s :=
  ⟨fun ⟨hm, hs, hq, hc, ht, hw⟩ => ⟨⟨hm, ht, hw⟩, ⟨hs, hq, hc⟩⟩, fun ⟨⟨hm, ht, hw⟩, ⟨hs, hq, hc⟩⟩ => ⟨hm, hs, hq, hc, ht, hw⟩⟩

/-- The registers `ControlOk` speaks of. -/
structure Control where
  blk : BlockState
  loopAt : LoopPos
  hlit : BitVec 9
  hdist : BitVec 6
  lsI : BitVec 9
  mlen : BitVec 9
  busy : Bool
  done : Bool
  errKind : BitVec 3

/-- Those registers of a state. -/
def control (s : State) : Control :=
  { blk := s.blk, loopAt := s.loopAt, hlit := s.hdr.hlit, hdist := s.hdr.hdist, lsI := s.seq.lsI, mlen := s.syms.mlen
    busy := s.status.busy, done := s.status.done, errKind := s.status.errKind }

section
variable {s t : State} (h : control t = control s)
include h

theorem controlOk_congr (hs : ControlOk s) : ControlOk t := by
  simp only [control, Control.mk.injEq] at h
  obtain ⟨hblk, hloop, hlit, hdist, hls, hmlen, hbusy, hdone, herr⟩ := h
  refine ⟨?_, ?_, ?_⟩
  · rw [← hs.session, sessionOk, sessionOk, hblk, hloop, hbusy, hdone, herr]
  · rw [← hs.sequence, sequenceOk, sequenceOk, seqTotal, seqTotal, hblk, hloop, hlit, hdist, hls]
  · rw [← hs.copy, copyOk, copyOk, hblk, hloop, hmlen]

theorem nextFormat_congr : nextFormat t = nextFormat s := by
  simp only [control, Control.mk.injEq] at h
  obtain ⟨hblk, hloop, -⟩ := h
  rw [nextFormat, nextFormat, hblk, hloop]

theorem sequenceDone_congr : sequenceDone t = sequenceDone s := by
  simp only [control, Control.mk.injEq] at h
  obtain ⟨hblk, hloop, hlit, hdist, hls, -⟩ := h
  rw [sequenceDone, sequenceDone, seqTotal, seqTotal, hblk, hloop, hlit, hdist, hls]

end

theorem errOfCode_errCode (e : ErrKind) : errOfCode (errCode e) = some e := by cases e <;> rfl

/-- R227: taking an error asks for nothing but the stores. -/
theorem machineInv_enterError {s : State} (h : StoreOk s) (e : ErrKind) : MachineInv (enterError e s) :=
  machineInv_iff.2 ⟨⟨h.memory, h.tables, h.widths⟩,
    ⟨by simp [sessionOk, errOfCode_errCode], by simp [sequenceOk], by simp [copyOk]⟩⟩

/-! ## The stores along the engine's moves -/

theorem widthsOk_iff {s : State} : widthsOk s = true ↔
    s.regs.inLen < 2 ^ s.cfg.addrW ∧ s.cur.byteOff < 2 ^ s.cfg.addrW ∧ s.regs.outCap < 2 ^ s.cfg.addrW ∧
      s.outPos < 2 ^ s.cfg.addrW ∧ s.regs.inBase < 2 ^ s.cfg.baseW ∧ s.regs.outBase < 2 ^ s.cfg.baseW := by
  simp [widthsOk, launchWidthOk, and_assoc]

theorem StoreOk.inLen_lt {s : State} (h : StoreOk s) : s.regs.inLen < 2 ^ s.cfg.addrW := (widthsOk_iff.1 h.widths).1

theorem StoreOk.byteOff_lt {s : State} (h : StoreOk s) : s.cur.byteOff < 2 ^ s.cfg.addrW := (widthsOk_iff.1 h.widths).2.1

theorem StoreOk.withCur {s : State} (h : StoreOk s) {c : Cursor} (hc : c.byteOff < 2 ^ s.cfg.addrW) :
    StoreOk { s with cur := c } := by
  obtain ⟨hin, -, hrest⟩ := widthsOk_iff.1 h.widths
  exact ⟨h.memory, h.tables, widthsOk_iff.2 ⟨hin, hc, hrest⟩⟩

theorem advance_one_byteOff_le {c : Cursor} {n : Nat} (h : c.byteOff < n) : (advance c 1).byteOff ≤ n := by
  have hp := (byteOff_lt_iff c n).1 h
  show (bitPos c + 1) / 8 ≤ n
  omega

theorem StoreOk.advance_one {s : State} (h : StoreOk s) (hl : s.cur.byteOff < s.regs.inLen) :
    StoreOk { s with cur := advance s.cur 1 } :=
  h.withCur (lt_of_le_of_lt (advance_one_byteOff_le hl) h.inLen_lt)

theorem StoreOk.afterSink {s : State} (h : StoreOk s) (v : Byte) (hw : s.outPos + 1 < 2 ^ s.cfg.addrW) :
    StoreOk (afterSink v s) := by
  obtain ⟨hin, hcur, hcap, -, hbase⟩ := widthsOk_iff.1 h.widths
  have hm := h.memory
  simp only [memoryOk, Bool.and_eq_true] at hm
  have hb := afterSink_wf (v := v) hm.2
  rw [afterSink_eq]
  exact ⟨by simp [memoryOk, hm.1, hb], h.tables, widthsOk_iff.2 ⟨hin, hcur, hcap, hw, hbase⟩⟩

theorem control_afterSink (v : Byte) (s : State) : control (afterSink v s) = control s := by
  rw [afterSink_eq]; rfl

theorem tablesOk_iff {s : State} : tablesOk s = true ↔ trieOk 19 s.cl.nodes.toNat s.cl.trie.toList = true ∧
    trieOk 288 s.ll.nodes.toNat s.ll.trie.toList = true ∧ trieOk 32 s.dist.nodes.toNat s.dist.trie.toList = true := by
  simp [tablesOk, and_assoc]

/-! ## How an element may end -/

/-- From a state of the invariant the pseudocode ends in `Q`, or raises an error with the stores in order, or overflows OUT_POS. -/
def Safe {α : Type} (m : M α) (s : State) (Q : α → State → Prop) : Prop :=
  match m s with
  | .ok a t => Q a t
  | .error (.raised _) t => StoreOk t
  | .error (.fault f) _ => f = .outPosOverflow
  | .error (.refused _) _ => False

section
variable {α β : Type} {m : M α} {s : State} {Q : α → State → Prop}

theorem Safe.of_ok {a : α} {t : State} (h : m s = .ok a t) (hQ : Q a t) : Safe m s Q := by
  unfold Safe; rw [h]; exact hQ

theorem Safe.of_raised {e : ErrKind} {t : State} (h : m s = .error (.raised e) t) (ht : StoreOk t) : Safe m s Q := by
  unfold Safe; rw [h]; exact ht

theorem Safe.bind {f : α → M β} {Q : β → State → Prop} (h : Safe m s fun a t => Safe (f a) t Q) : Safe (m >>= f) s Q := by
  unfold Safe at h ⊢
  rw [bind_apply]
  cases hm : m s with
  | ok a t => rw [hm] at h; exact h
  | error e t => rw [hm] at h; cases e <;> exact h

/-- An operation that cannot stop, then the rest of the element. -/
theorem Safe.bind_ok {f : α → M β} {Q : β → State → Prop} {a : α} {t : State} (h : m s = .ok a t) (hf : Safe (f a) t Q) :
    Safe (m >>= f) s Q :=
  .bind (.of_ok h hf)

theorem Safe.mono {P : α → State → Prop} (h : Safe m s P) (hPQ : ∀ a t, P a t → Q a t) : Safe m s Q := by
  unfold Safe at h ⊢
  cases hm : m s with
  | ok a t => rw [hm] at h; exact hPQ a t h
  | error e t => rw [hm] at h; cases e <;> exact h

/-- One operation, then the rest of the element. -/
theorem Safe.andThen {f : α → M β} {P : α → State → Prop} {Q : β → State → Prop} (h : Safe m s P)
    (hf : ∀ a t, P a t → Safe (f a) t Q) : Safe (m >>= f) s Q :=
  .bind (h.mono hf)

theorem Safe.ite {p : Prop} [Decidable p] {n : M α} (hm : p → Safe m s Q) (hn : ¬p → Safe n s Q) :
    Safe (if p then m else n) s Q := by
  split
  · exact hm ‹_›
  · exact hn ‹_›

end

/-- What the outcome of a step of the engine may be from a state of the invariant. -/
def OutcomeOk : Host.Outcome State Fault Refusal → Prop
  | .next t => MachineInv t
  | .fault f => f = .outPosOverflow
  | .refused _ => False

theorem Safe.finish {m : M Unit} {s : State} (h : Safe m s fun _ t => MachineInv t) : OutcomeOk (finish m s) := by
  unfold Safe at h
  unfold Machine.finish
  cases hm : m s with
  | ok a t => rw [hm] at h; exact h
  | error e t =>
    rw [hm] at h
    cases e with
    | raised e => exact machineInv_enterError h e
    | fault f => exact h
    | refused r => exact h

/-! ## The shared operations: the stores stay in order and the control registers stay as they are -/

/-- `t` is reached from `s` by operations that touch no control register. -/
structure Flow (s t : State) : Prop where
  store : StoreOk t
  control : control t = control s

theorem Flow.refl {s : State} (h : StoreOk s) : Flow s s := ⟨h, rfl⟩

theorem Flow.trans {s t u : State} (h : Flow s t) (h' : Flow t u) : Flow s u := ⟨h'.store, h'.control.trans h.control⟩

/-- The operation touches no control register. -/
def Flows {α : Type} (m : M α) : Prop := ∀ s, StoreOk s → Safe m s fun _ t => Flow s t

theorem Flows.bind {α β : Type} {m : M α} {f : α → M β} (hm : Flows m) (hf : ∀ a, Flows (f a)) : Flows (m >>= f) := fun s hs =>
  (hm s hs).andThen fun a _ hst => (hf a _ hst.store).mono fun _ _ htu => hst.trans htu

theorem Flows.pure {α : Type} (a : α) : Flows (pure a : M α) := fun _ => Flow.refl

theorem safe_readBit {s : State} (h : StoreOk s) :
    Safe readBit s fun _ t => t = { s with cur := advance s.cur 1 } ∧ s.cur.byteOff < s.regs.inLen := by
  by_cases hl : s.cur.byteOff < s.regs.inLen
  · exact .of_ok (readBit_ok hl h.inLen_lt) ⟨rfl, hl⟩
  · exact .of_raised (readBit_end (not_lt.1 hl)) h

theorem flows_readBit : Flows readBit := fun _ hs => (safe_readBit hs).mono fun _ _ ⟨ht, hl⟩ => ht ▸ ⟨hs.advance_one hl, rfl⟩

theorem flows_readLsb (n : Nat) : Flows (readLsb n) := by
  induction n with
  | zero => exact .pure 0
  | succ n ih => exact .bind flows_readBit fun _ => .bind ih fun _ => .pure _

/-- A field read gives a value of its width. -/
theorem safe_readLsb {s : State} (h : StoreOk s) (n : Nat) : Safe (readLsb n) s fun v t => v < 2 ^ n ∧ Flow s t := by
  have hf := flows_readLsb n s h
  unfold Safe at hf ⊢
  cases hm : readLsb n s with
  | ok v t =>
    rw [hm] at hf
    obtain ⟨rfl, -⟩ := readLsb_inv hm
    exact ⟨fieldLsb_lt s _ n, hf⟩
  | error e t => rw [hm] at hf; cases e <;> exact hf

theorem flows_readByte : Flows readByte := fun s hs => by
  by_cases hl : s.cur.byteOff < s.regs.inLen
  · exact .of_ok (readByte_ok hl hs.inLen_lt) ⟨hs.withCur (lt_of_le_of_lt hl hs.inLen_lt), rfl⟩
  · exact .of_raised (readByte_end (not_lt.1 hl)) hs

theorem flows_readLe16 : Flows readLe16 := .bind flows_readByte fun _ => .bind flows_readByte fun _ => .pure _

theorem flows_sinkWrite (v : Byte) : Flows (sinkWrite v) := fun s hs => by
  by_cases hw : s.outPos + 1 < 2 ^ s.cfg.addrW
  · exact .of_ok (sinkWrite_ok v hw) ⟨hs.afterSink v hw, control_afterSink v s⟩
  · unfold Safe; rw [sinkWrite_fault v (not_lt.1 hw)]

theorem flows_setCopyLeft (n : Nat) : Flows (setCopyLeft n) := fun _ hs => ⟨⟨hs.memory, hs.tables, hs.widths⟩, rfl⟩

theorem flows_copyBytes (dist n : Nat) : Flows (copyBytes dist n) := by
  induction n with
  | zero => exact .pure ()
  | succ n ih =>
    exact fun s => (Flows.bind (flows_sinkWrite _) fun _ => .bind (flows_setCopyLeft n) fun _ => ih) s

theorem flows_copyBackReference (len dist : Nat) : Flows (copyBackReference len dist) :=
  .bind (flows_setCopyLeft len) fun _ => flows_copyBytes dist len

theorem flows_storedBytes (n : Nat) : Flows (storedBytes n) := by
  induction n with
  | zero => exact .pure ()
  | succ n ih => exact .bind flows_readByte fun b => .bind (flows_sinkWrite b) fun _ => .bind (flows_setCopyLeft n) fun _ => ih

theorem flows_storedBody : Flows storedBody := fun s hs =>
  .bind_ok (get_apply s) <| .ite (fun _ => hs) fun _ =>
    (Flows.bind (flows_setCopyLeft _) fun _ => flows_storedBytes _) s hs

/-- A cursor inside IN: R103 does not overflow BYTE_OFF there. -/
def InsideInput (s : State) : Prop := bitPos s.cur ≤ 8 * s.regs.inLen

theorem insideInput_advance {s : State} (h : s.cur.byteOff < s.regs.inLen) : InsideInput { s with cur := advance s.cur 1 } := by
  have hp := (byteOff_lt_iff s.cur _).1 h
  show bitPos (advance s.cur 1) ≤ _
  rw [bitPos_advance]
  exact hp

theorem alignedOff_le {s : State} (h : InsideInput s) : alignedOff s.cur ≤ s.regs.inLen := by
  unfold InsideInput bitPos at h
  unfold alignedOff
  split
  · omega
  · rename_i h0
    have : s.cur.bitOff.toNat ≠ 0 := fun e => h0 (BitVec.eq_of_toNat_eq (by simpa using e))
    omega

theorem safe_alignToByte {s : State} (h : StoreOk s) (hi : InsideInput s) : Safe alignToByte s fun _ t => Flow s t := by
  have hlt := lt_of_le_of_lt (alignedOff_le hi) h.inLen_lt
  exact .of_ok (alignToByte_ok hlt) ⟨h.withCur hlt, rfl⟩

/-- R140, R130: the walk gives a symbol of the alphabet. Every pass consumes a bit, so it never runs out of passes. -/
theorem safe_walkTrie {n : Nat} {tab : List Slot} (ht : LeavesBelow n tab) (fuel k : Nat) {s : State} (h : StoreOk s)
    (hf : bitsLeft s < fuel) : Safe (walkTrie tab fuel k) s fun v t => v < n ∧ Flow s t := by
  induction fuel generalizing k s with
  | zero => omega
  | succ fuel ih =>
    by_cases hl : s.cur.byteOff < s.regs.inLen
    · have h1 := h.advance_one hl
      have hst : Flow s (afterWalk 1 (BitVec.ofNat 9 k) s) := ⟨⟨h1.memory, h1.tables, h1.widths⟩, rfl⟩
      have hrun := walkTrie_bit tab fuel k hl h.inLen_lt
      unfold Safe
      rw [hrun]
      cases hsl : tab.getD (2 * k + (streamBit s (bitPos s.cur)).toNat) .empty with
      | empty => exact hst.store
      | leaf v => exact ⟨ht.getD hsl, hst⟩
      | node j =>
        have hp := (byteOff_lt_iff s.cur _).1 hl
        refine (ih j hst.store ?_).mono fun v t hv => ⟨hv.1, hst.trans hv.2⟩
        have hleft : bitsLeft (afterWalk 1 (BitVec.ofNat 9 k) s) + 1 = bitsLeft s := by
          show 8 * s.regs.inLen - bitPos (advance s.cur 1) + 1 = 8 * s.regs.inLen - bitPos s.cur
          rw [bitPos_advance]; omega
        omega
    · refine .of_raised (walkTrie_end tab fuel k (not_lt.1 hl)) ?_
      have := h.withCur (c := advance s.cur 0) (by rw [advance_zero]; exact h.byteOff_lt)
      exact ⟨this.memory, this.tables, this.widths⟩

theorem safe_decodeSymbol {n : Nat} {tab : List Slot} (ht : LeavesBelow n tab) {s : State} (h : StoreOk s) :
    Safe (decodeSymbol tab) s fun v t => v < n ∧ Flow s t :=
  safe_walkTrie ht (bitsLeft s + 1) 0 h (Nat.lt_succ_self _)

end Sys2Proof.Machine
end

section
/-! SUPPORT. Every element, run from a state of the invariant, ends in one, takes an error, or overflows OUT_POS. -/

namespace Sys2Proof.Machine

theorem Flow.machineInv {s t : State} (h : Flow s t) (hs : ControlOk s) : MachineInv t :=
  machineInv_iff.2 ⟨h.store, controlOk_congr h.control hs⟩

/-- STATUS of a DECODE that runs (R203). -/
structure Running (s : State) : Prop where
  busy : s.status.busy = true
  done : s.status.done = false
  errKind : s.status.errKind = 0

theorem Running.congr {s t : State} (h : control t = control s) (hs : Running s) : Running t :=
  ⟨(congrArg Control.busy h).trans hs.busy, (congrArg Control.done h).trans hs.done, (congrArg Control.errKind h).trans hs.errKind⟩

theorem ControlOk.running {s : State} (h : ControlOk s) (hb : s.status.busy = true) : Running s := by
  have hs := h.session
  unfold sessionOk at hs
  split at hs <;> simp [hb] at hs
  · exact ⟨hb, hs.1, hs.2⟩
  · exact ⟨hb, hs.1, hs.2⟩
  · exact ⟨hb, hs.1.1, hs.1.2⟩

/-- Back at a literal/length symbol nothing is asked of MLEN or of the sequence. -/
theorem ControlOk.toSymbols {s : State} (h : ControlOk s) : ControlOk { s with loopAt := .symbols } := by
  refine ⟨?_, by simp [sequenceOk], by simp [copyOk]⟩
  have hs := h.session
  unfold sessionOk at hs ⊢
  cases hb : s.blk <;> simp_all

/-- R183: after a length symbol the distance symbol comes next, with MLEN a length of a COPY. -/
theorem ControlOk.toDistance {s : State} (h : ControlOk s) {m : BitVec 9} (hm : 3 ≤ m.toNat ∧ m.toNat ≤ 258) :
    ControlOk { s with syms := { s.syms with mlen := m }, loopAt := .distance } := by
  refine ⟨?_, by simp [sequenceOk], by simp [copyOk, hm.1, hm.2]⟩
  have hs := h.session
  unfold sessionOk at hs ⊢
  cases hb : s.blk <;> simp_all

/-! ## Block headers -/

theorem Flows.modify {f : State → State} (hst : ∀ s, StoreOk s → StoreOk (f s)) (hc : ∀ s, control (f s) = control s) :
    Flows (modify f) := fun s hs => ⟨hst s hs, hc s⟩

theorem Flows.andThen {α β : Type} {m : M α} {f : α → M β} {s : State} {Q : β → State → Prop} (hm : Flows m) (hs : StoreOk s)
    (hf : ∀ a t, Flow s t → Safe (f a) t Q) : Safe (m >>= f) s Q :=
  (hm s hs).andThen hf

/-- R167. -/
theorem safe_endOfBlock {s : State} (hs : StoreOk s) (hr : Running s) : Safe endOfBlock s fun _ t => MachineInv t := by
  show MachineInv (if s.hdr.bfinal = 1#1 then completeSuccess s else { s with blk := .readBlockHeader })
  split
  · exact machineInv_iff.2 ⟨⟨hs.memory, hs.tables, hs.widths⟩,
      ⟨by simp [sessionOk, hr.errKind], by simp [sequenceOk], by simp [copyOk]⟩⟩
  · exact machineInv_iff.2 ⟨⟨hs.memory, hs.tables, hs.widths⟩,
      ⟨by simp [sessionOk, hr.busy, hr.done, hr.errKind], by simp [sequenceOk], by simp [copyOk]⟩⟩

theorem execStored_ok (b : Bool) {s : State} (hs : StoreOk s) (hr : Running s) (hi : InsideInput s) :
    OutcomeOk (execStored b s) := by
  refine Safe.finish (.bind_ok rfl (.bind_ok rfl ?_))
  refine (safe_alignToByte (by exact ⟨hs.memory, hs.tables, hs.widths⟩) (by exact hi)).andThen fun _ t ht => ?_
  refine flows_readLe16.andThen ht.store fun _ u hu => ?_
  refine Flows.andThen (.modify (fun _ h => ⟨h.memory, h.tables, h.widths⟩) fun _ => rfl) hu.store fun _ u1 hu1 => ?_
  refine flows_readLe16.andThen hu1.store fun _ v hv => ?_
  refine Flows.andThen (.modify (fun _ h => ⟨h.memory, h.tables, h.widths⟩) fun _ => rfl) hv.store fun _ v1 hv1 => ?_
  refine flows_storedBody.andThen hv1.store fun _ w hw => safe_endOfBlock hw.store ?_
  exact Running.congr ((((ht.trans hu).trans hu1).trans hv).trans (hv1.trans hw)).control ⟨hr.busy, hr.done, hr.errKind⟩

theorem execFixed_ok (b : Bool) {s : State} (hs : StoreOk s) (hr : Running s) : OutcomeOk (execFixed b s) := by
  refine Safe.finish (.bind_ok rfl ?_)
  exact machineInv_iff.2 ⟨⟨hs.memory, hs.tables, hs.widths⟩,
    ⟨by simp [sessionOk, hr.busy, hr.done, hr.errKind], by simp [sequenceOk], by simp [copyOk]⟩⟩

theorem flows_readClLengths (order : List Nat) (n : Nat) : Flows (readClLengths order n) := by
  induction order generalizing n with
  | nil => exact .pure ()
  | cons p order ih =>
    exact .bind (flows_readLsb _) fun _ => .bind (.modify (fun _ h => ⟨h.memory, h.tables, h.widths⟩) fun _ => rfl) fun _ => ih _

theorem StoreOk.buildCl {s : State} (h : StoreOk s) :
    StoreOk { s with cl := (buildTable 7 s.cl s.scratch).huff, scratch := (buildTable 7 s.cl s.scratch).scratch } := by
  obtain ⟨hcl, hll, hd⟩ := tablesOk_iff.1 h.tables
  exact ⟨h.memory, tablesOk_iff.2 ⟨buildTable_trieOk (by decide) 7 s.scratch hcl, hll, hd⟩, h.widths⟩

theorem StoreOk.buildLl {s : State} (h : StoreOk s) :
    StoreOk { s with ll := (buildTable 15 s.ll s.scratch).huff, scratch := (buildTable 15 s.ll s.scratch).scratch } := by
  obtain ⟨hcl, hll, hd⟩ := tablesOk_iff.1 h.tables
  exact ⟨h.memory, tablesOk_iff.2 ⟨hcl, buildTable_trieOk (by decide) 15 s.scratch hll, hd⟩, h.widths⟩

theorem StoreOk.buildDist {s : State} (h : StoreOk s) :
    StoreOk { s with dist := (buildTable 15 s.dist s.scratch).huff, scratch := (buildTable 15 s.dist s.scratch).scratch } := by
  obtain ⟨hcl, hll, hd⟩ := tablesOk_iff.1 h.tables
  exact ⟨h.memory, tablesOk_iff.2 ⟨hcl, hll, buildTable_trieOk (by decide) 15 s.scratch hd⟩, h.widths⟩

theorem flows_buildClTable : Flows buildClTable := fun _ hs =>
  .bind_ok rfl (.bind_ok rfl (.ite (fun _ => ⟨hs.buildCl, rfl⟩) fun _ => hs.buildCl))

/-- R158: the counts of a dynamic block's header are in range. -/
structure CountsOk (s : State) : Prop where
  hlit_ge : 257 ≤ s.hdr.hlit.toNat
  hlit_le : s.hdr.hlit.toNat ≤ 288
  hdist_ge : 1 ≤ s.hdr.hdist.toNat
  hdist_le : s.hdr.hdist.toNat ≤ 32

theorem CountsOk.congr {s t : State} (h : control t = control s) (hs : CountsOk s) : CountsOk t := by
  have hl : t.hdr.hlit = s.hdr.hlit := congrArg Control.hlit h
  have hd : t.hdr.hdist = s.hdr.hdist := congrArg Control.hdist h
  exact ⟨hl ▸ hs.hlit_ge, hl ▸ hs.hlit_le, hd ▸ hs.hdist_ge, hd ▸ hs.hdist_le⟩

theorem countsOk_of_fields (s : State) {f g : Nat} (hf : f < 2 ^ 5) (hg : g < 2 ^ 5)
    (hl : s.hdr.hlit = BitVec.ofNat 9 (hlitOf f)) (hd : s.hdr.hdist = BitVec.ofNat 6 (hdistOf g)) : CountsOk s := by
  refine ⟨?_, ?_, ?_, ?_⟩ <;> simp only [hl, hd, BitVec.toNat_ofNat, hlitOf, hdistOf] <;> omega

/-- R161: a dynamic block whose length sequence begins. -/
theorem safe_startSequence {s : State} (hs : StoreOk s) (hr : Running s) (hb : s.blk = .dynamicBlock) (hc : CountsOk s) :
    Safe startSequence s fun _ t => MachineInv t :=
  machineInv_iff.2 ⟨⟨hs.memory, hs.tables, hs.widths⟩,
    ⟨by simp [sessionOk, hb, hr.busy, hr.done, hr.errKind],
      by simp [sequenceOk, hc.hlit_ge, hc.hlit_le, hc.hdist_ge, hc.hdist_le], by simp [copyOk]⟩⟩

theorem execDynamic_ok (b : Bool) {s : State} (hs : StoreOk s) (hr : Running s) : OutcomeOk (execDynamic b s) := by
  refine Safe.finish (.bind_ok rfl (.bind_ok rfl ?_))
  refine (safe_readLsb (by exact ⟨hs.memory, hs.tables, hs.widths⟩) 5).andThen fun f t ⟨hf, ht⟩ => .bind_ok rfl ?_
  refine (safe_readLsb (by exact ⟨ht.store.memory, ht.store.tables, ht.store.widths⟩) 5).andThen
    fun g u ⟨hg, hu⟩ => .bind_ok rfl ?_
  refine (flows_readLsb 4).andThen (by exact ⟨hu.store.memory, hu.store.tables, hu.store.widths⟩) fun h v hv => ?_
  refine Flows.andThen (.modify (fun _ h => ⟨h.memory, h.tables, h.widths⟩) fun _ => rfl) hv.store fun _ v1 hv1 => ?_
  refine (flows_readClLengths clclOrder (hclenOf h)).andThen hv1.store fun _ w hw => ?_
  refine flows_buildClTable.andThen hw.store fun _ x hx => ?_
  have hcx := ((hv.trans hv1).trans (hw.trans hx)).control
  have htr : Running t := Running.congr ht.control ⟨hr.busy, hr.done, hr.errKind⟩
  have hur : Running u := Running.congr hu.control ⟨htr.busy, htr.done, htr.errKind⟩
  have htb : t.blk = .dynamicBlock := congrArg Control.blk ht.control
  have hub : u.blk = .dynamicBlock := (congrArg Control.blk hu.control).trans htb
  have hul : u.hdr.hlit = BitVec.ofNat 9 (hlitOf f) := congrArg Control.hlit hu.control
  refine safe_startSequence hx.store (Running.congr hcx ⟨hur.busy, hur.done, hur.errKind⟩) ?_
    (CountsOk.congr hcx (countsOk_of_fields _ hf hg hul rfl))
  exact (congrArg Control.blk hcx).trans hub

theorem execReserved_ok (b : Bool) {s : State} (hs : StoreOk s) : OutcomeOk (execReserved b s) :=
  Safe.finish (.bind_ok rfl ⟨hs.memory, hs.tables, hs.widths⟩)

/-! ## Literal/length and distance symbols -/

theorem flows_latchSym (sym : Nat) : Flows (latchSym sym) := .modify (fun _ h => ⟨h.memory, h.tables, h.widths⟩) fun _ => rfl

theorem execLit_ok (sym : BitVec 9) {s : State} (hs : StoreOk s) (hc : ControlOk s) : OutcomeOk (execLit sym s) :=
  Safe.finish (((flows_latchSym _).bind fun _ => flows_sinkWrite _) s hs |>.mono fun _ _ ht => ht.machineInv hc)

theorem execEob_ok {s : State} (hs : StoreOk s) (hr : Running s) : OutcomeOk (execEob s) :=
  Safe.finish ((flows_latchSym _).andThen hs fun _ _ ht => safe_endOfBlock ht.store (hr.congr ht.control))

/-- R110: the lengths of the length symbols. -/
theorem mlenOf_range {j x : Nat} (hj : j ≤ 28) (hx : x < 2 ^ lenExtra.getD j 0) : 3 ≤ mlenOf j x ∧ mlenOf j x ≤ 258 := by
  have hrow : ∀ j < 29, 3 ≤ lenBase.getD j 0 ∧ lenBase.getD j 0 + 2 ^ lenExtra.getD j 0 ≤ 259 := by decide
  have := hrow j (by omega)
  unfold mlenOf
  omega

theorem copyLength_outcomeOk (j : Nat) {s : State} (hs : StoreOk s) (hc : ControlOk s) : OutcomeOk (finish (copyLength j) s) := by
  refine Safe.finish ((flows_latchSym _).andThen hs fun _ t ht => .ite (fun _ => ht.store) fun hj => ?_)
  refine (safe_readLsb ht.store _).andThen fun x u ⟨hx, hu⟩ => ?_
  have hm := mlenOf_range (by omega) hx
  refine machineInv_iff.2 ⟨⟨hu.store.memory, hu.store.tables, hu.store.widths⟩,
    (controlOk_congr (ht.trans hu).control hc).toDistance ?_⟩
  rw [BitVec.toNat_ofNat, Nat.mod_eq_of_lt (by omega)]
  exact hm

theorem copyDistance_outcomeOk (k : Nat) {s : State} (hs : StoreOk s) (hc : ControlOk s) :
    OutcomeOk (finish (copyDistance k) s) := by
  refine Safe.finish (Flows.andThen (.modify (fun _ h => ⟨h.memory, h.tables, h.widths⟩) fun _ => rfl) hs fun _ t ht => ?_)
  refine .ite (fun _ => ht.store) fun _ => (flows_readLsb _).andThen ht.store fun x u hu => ?_
  refine Flows.andThen (.modify (fun _ h => ⟨h.memory, h.tables, h.widths⟩) fun _ => rfl) hu.store fun _ v hv => ?_
  refine .bind_ok rfl (.ite (fun _ => hv.store) fun _ => (flows_copyBackReference _ _).andThen hv.store fun _ w hw => ?_)
  have hcw := controlOk_congr ((ht.trans hu).trans (hv.trans hw)).control hc
  exact machineInv_iff.2 ⟨⟨hw.store.memory, hw.store.tables, hw.store.widths⟩, hcw.toSymbols⟩

/-! ## The length sequence of a dynamic block -/

/-- A dynamic block that still reads code-length elements (R161). -/
structure InSequence (s : State) : Prop where
  blk : s.blk = .dynamicBlock
  loopAt : s.loopAt = .lengths
  counts : CountsOk s
  room : s.seq.lsI.toNat < seqTotal s

theorem inSequence_of {s : State} (hc : ControlOk s) (hf : nextFormat s = some .clSymbol) (hd : sequenceDone s = false) :
    InSequence s := by
  have hpos : s.blk = .dynamicBlock ∧ s.loopAt = .lengths := by
    unfold nextFormat at hf
    split at hf <;> simp_all
  have hq := hc.sequence
  simp only [sequenceOk, hpos, decide_true, Bool.and_self, Bool.not_true, Bool.false_or, Bool.and_eq_true, decide_eq_true_eq] at hq
  simp only [sequenceDone, hpos, decide_true, Bool.and_self, Bool.true_and, decide_eq_false_iff_not, not_le] at hd
  obtain ⟨⟨⟨⟨hl, hl'⟩, hdl⟩, hdl'⟩, -⟩ := hq
  exact ⟨hpos.1, hpos.2, ⟨hl, hl', hdl, hdl'⟩, hd⟩

theorem InSequence.congr {s t : State} (h : control t = control s) (hs : InSequence s) : InSequence t := by
  refine ⟨(congrArg Control.blk h).trans hs.blk, (congrArg Control.loopAt h).trans hs.loopAt, hs.counts.congr h, ?_⟩
  have hl : t.hdr.hlit = s.hdr.hlit := congrArg Control.hlit h
  have hd : t.hdr.hdist = s.hdr.hdist := congrArg Control.hdist h
  have hi : t.seq.lsI = s.seq.lsI := congrArg Control.lsI h
  have := hs.room
  unfold seqTotal at this ⊢
  rwa [hl, hd, hi]

/-- R162 to R165: a run of lengths within TOTAL. -/
theorem safe_putLengths (c : BitVec 4) (r : Nat) {s : State} (hs : StoreOk s) (hc : ControlOk s) (hq : InSequence s)
    (hr : s.seq.lsI.toNat + r ≤ seqTotal s) : Safe (putLengths c r) s fun _ t => MachineInv t := by
  have htot : seqTotal s ≤ 320 := by
    have h1 := hq.counts.hlit_le
    have h2 := hq.counts.hdist_le
    unfold seqTotal; omega
  obtain ⟨v, hrun, -⟩ := putLengths_ok c r (s := s) (by omega)
  refine .of_ok hrun (machineInv_iff.2 ⟨⟨hs.memory, hs.tables, hs.widths⟩, ⟨hc.session, ?_, ?_⟩⟩)
  · have hn : (BitVec.ofNat 9 (s.seq.lsI.toNat + r)).toNat = s.seq.lsI.toNat + r := by
      rw [BitVec.toNat_ofNat, Nat.mod_eq_of_lt (by omega)]
    have hr' : s.seq.lsI.toNat + r ≤ s.hdr.hlit.toNat + s.hdr.hdist.toNat := hr
    simp [sequenceOk, seqTotal, hq.counts.hlit_ge, hq.counts.hlit_le, hq.counts.hdist_ge, hq.counts.hdist_le, hn, hr']
  · simp [copyOk, hq.loopAt]

theorem safe_putRun (c : BitVec 4) (r : Nat) {s : State} (hs : StoreOk s) (hc : ControlOk s) (hq : InSequence s) :
    Safe (putRun c r) s fun _ t => MachineInv t :=
  .bind_ok rfl (.ite (fun _ => hs) fun hr => safe_putLengths c r hs hc hq (not_lt.1 hr))

theorem execClLit_ok (c : BitVec 5) {s : State} (hs : StoreOk s) (hc : ControlOk s) (hq : InSequence s) :
    OutcomeOk (execClLit c s) :=
  Safe.finish (safe_putLengths (c.setWidth 4) 1 hs hc hq hq.room)

theorem execRepPrev_ok {s : State} (hs : StoreOk s) (hc : ControlOk s) (hq : InSequence s) : OutcomeOk (execRepPrev s) :=
  Safe.finish ((flows_readLsb 2).andThen hs fun _ _ ht => .bind_ok rfl (.ite (fun _ => ht.store) fun _ =>
    safe_putRun _ _ ht.store (controlOk_congr ht.control hc) (hq.congr ht.control)))

/-- R164, R165: `n` extra bits, then a run of zero lengths. -/
theorem repeatZero_ok (n : Nat) (count : Nat → Nat) {s : State} (hs : StoreOk s) (hc : ControlOk s) (hq : InSequence s) :
    OutcomeOk (finish (readLsb n >>= fun x => putRun 0 (count x)) s) :=
  Safe.finish ((flows_readLsb n).andThen hs fun _ _ ht =>
    safe_putRun _ _ ht.store (controlOk_congr ht.control hc) (hq.congr ht.control))

theorem flows_splitSequence : Flows splitSequence := .modify (fun _ h => ⟨h.memory, h.tables, h.widths⟩) fun _ => rfl

theorem buildBlockTables_ok {s : State} (hs : StoreOk s) (hc : ControlOk s) : OutcomeOk (finish buildBlockTables s) := by
  refine Safe.finish (flows_splitSequence.andThen hs fun _ t ht => .bind_ok rfl (.bind_ok rfl ?_))
  have hll := ht.store.buildLl
  refine .ite (fun _ => .bind_ok rfl (.bind_ok rfl (.ite (fun _ => ?_) fun _ => hll.buildDist))) fun _ => hll
  have hd := hll.buildDist
  exact machineInv_iff.2 ⟨⟨hd.memory, hd.tables, hd.widths⟩,
    controlOk_congr (s := { t with loopAt := .symbols }) rfl (controlOk_congr ht.control hc).toSymbols⟩

/-! ## Fetching an element -/

/-- The number of values of a stream format (R72, R82 to R84). -/
def alphabetSize : Format → Nat
  | .blockHeader => 8
  | .litlenSymbol => 288
  | .distSymbol => 32
  | .clSymbol => 19
  | .hostCommand => 0

/-- Every value of an alphabet is an instruction. -/
theorem decode_of_lt {f : Format} {v : Nat} (hv : v < alphabetSize f) : ∃ i, decode f v = .ok i := by
  cases f with
  | blockHeader => exact ⟨decodeHeader v, if_neg (not_le.2 hv)⟩
  | litlenSymbol =>
    have hlen : litlenFrom256.length = 32 := rfl
    have hv : v < 288 := hv
    have hd : decode .litlenSymbol v = decodeLitlen v := if_neg (by show ¬ 512 ≤ v; omega)
    rw [hd, decodeLitlen]
    split
    · exact ⟨_, rfl⟩
    · rw [List.getElem?_eq_getElem (by omega)]
      exact ⟨_, rfl⟩
  | distSymbol =>
    have hlen : distFrom0.length = 32 := rfl
    have hv : v < 32 := hv
    have hd : decode .distSymbol v = decodeDist v := if_neg (not_le.2 hv)
    rw [hd, decodeDist, List.getElem?_eq_getElem (by omega)]
    exact ⟨_, rfl⟩
  | clSymbol =>
    have hv : v < 19 := hv
    interval_cases v <;> exact ⟨_, rfl⟩
  | hostCommand => exact absurd hv (Nat.not_lt_zero v)

theorem leavesBelow_clTable {s : State} (h : StoreOk s) : LeavesBelow 19 s.cl.trie.toList :=
  leavesBelow_of_trieOk (tablesOk_iff.1 h.tables).1

theorem leavesBelow_litlenTable {s : State} (h : StoreOk s) : LeavesBelow 288 (litlenTable s) := by
  obtain ⟨-, hll, -⟩ := tablesOk_iff.1 h.tables
  unfold litlenTable
  split
  · exact leavesBelow_of_raw 288 _ fixedLlRaw
  · exact leavesBelow_of_trieOk hll

theorem leavesBelow_distTable {s : State} (h : StoreOk s) : LeavesBelow 32 (distTable s) := by
  obtain ⟨-, -, hd⟩ := tablesOk_iff.1 h.tables
  unfold distTable
  split
  · exact leavesBelow_of_raw 32 _ fixedDRaw
  · exact leavesBelow_of_trieOk hd

/-- One bit of a header: its value, and a cursor that is still inside IN. -/
theorem safe_headerBit {s : State} (h : StoreOk s) :
    Safe (readMsb 1) s fun v t => v < 2 ∧ Flow s t ∧ InsideInput t := by
  refine (safe_readBit h).andThen fun b t ⟨ht, hl⟩ => ?_
  refine ⟨by cases b <;> decide, ht ▸ ⟨h.advance_one hl, rfl⟩, ht ▸ insideInput_advance hl⟩

theorem safe_readHeader {s : State} (h : StoreOk s) : Safe readHeader s fun v t => v < 8 ∧ Flow s t ∧ InsideInput t := by
  refine (safe_headerBit h).andThen fun f t ⟨hf, ht, _⟩ => ?_
  refine Flows.andThen (.modify (fun _ h => ⟨h.memory, h.tables, h.widths⟩) fun _ => rfl) ht.store fun _ t1 ht1 => ?_
  refine (safe_headerBit ht1.store).andThen fun b0 u ⟨hb0, hu, _⟩ => (safe_headerBit hu.store).andThen fun b1 v ⟨hb1, hv, hi⟩ => ?_
  exact ⟨by omega, (ht.trans ht1).trans (hu.trans hv), hi⟩

theorem safe_fetchValue {s : State} (h : StoreOk s) {f : Format} (hf : f ≠ .hostCommand) :
    Safe (fetchValue f) s fun v t => v < alphabetSize f ∧ Flow s t ∧ (f = .blockHeader → InsideInput t) := by
  refine .bind_ok rfl ?_
  cases f with
  | blockHeader => exact (safe_readHeader h).mono fun _ _ ⟨hv, ht, hi⟩ => ⟨hv, ht, fun _ => hi⟩
  | litlenSymbol => exact (safe_decodeSymbol (leavesBelow_litlenTable h) h).mono fun _ _ ⟨hv, ht⟩ => ⟨hv, ht, fun h => nomatch h⟩
  | distSymbol => exact (safe_decodeSymbol (leavesBelow_distTable h) h).mono fun _ _ ⟨hv, ht⟩ => ⟨hv, ht, fun h => nomatch h⟩
  | clSymbol => exact (safe_decodeSymbol (leavesBelow_clTable h) h).mono fun _ _ ⟨hv, ht⟩ => ⟨hv, ht, fun h => nomatch h⟩
  | hostCommand => exact absurd rfl hf

/-- R91, R150: from a running state of the invariant the next element is an instruction of the format STATE asks for. -/
theorem safe_fetch {s : State} (h : StoreOk s) {f : Format} (hf : nextFormat s = some f) :
    Safe fetch s fun i t => (encode i).format = f ∧ Flow s t ∧ (f = .blockHeader → InsideInput t) := by
  refine .bind_ok rfl ?_
  simp only [hf]
  refine (safe_fetchValue h (nextFormat_ne_host hf)).andThen fun v t ⟨hv, ht, hi⟩ => ?_
  obtain ⟨i, hd⟩ := decode_of_lt hv
  simp only [hd]
  exact ⟨decode_format hd, ht, hi⟩

/-! ## A step of the engine -/

theorem nextFormat_of_busy {s : State} (hc : ControlOk s) (hb : s.status.busy = true) : ∃ f, nextFormat s = some f := by
  have hs := hc.session
  unfold nextFormat
  unfold sessionOk at hs
  cases hblk : s.blk <;> cases hl : s.loopAt <;> simp_all

/-- The meaning of an element, in the state its code was read in. -/
theorem meaning_ok {f : Format} {m : State → Host.Outcome State Fault Refusal} (hm : Meaning f m) {s : State} (hs : StoreOk s)
    (hc : ControlOk s) (hb : s.status.busy = true) (hf : nextFormat s = some f) (hd : sequenceDone s = false)
    (hi : f = .blockHeader → InsideInput s) : OutcomeOk (m s) := by
  have hr := hc.running hb
  cases hm with
  | stored b => exact execStored_ok b hs hr (hi rfl)
  | fixed b => exact execFixed_ok b hs hr
  | dynamic b => exact execDynamic_ok b hs hr
  | reserved b => exact execReserved_ok b hs
  | lit sym => exact execLit_ok sym hs hc
  | eob => exact execEob_ok hs hr
  | length j => exact copyLength_outcomeOk j hs hc
  | distance k => exact copyDistance_outcomeOk k hs hc
  | clLit c => exact execClLit_ok c hs hc (inSequence_of hc hf hd)
  | repPrev => exact execRepPrev_ok hs hc (inSequence_of hc hf hd)
  | repZero => exact repeatZero_ok 3 repZeroCount hs hc (inSequence_of hc hf hd)
  | repZeroLong => exact repeatZero_ok 7 repZeroLongCount hs hc (inSequence_of hc hf hd)
  | decode => exact absurd rfl (nextFormat_ne_host hf)

theorem runElement_ok {s : State} (h : MachineInv s) (hb : s.status.busy = true) (hd : sequenceDone s = false) :
    OutcomeOk (runElement s) := by
  obtain ⟨hs, hc⟩ := machineInv_iff.1 h
  obtain ⟨f, hf⟩ := nextFormat_of_busy hc hb
  have hsafe := safe_fetch hs hf
  unfold Safe at hsafe
  unfold runElement
  cases hfetch : fetch s with
  | ok i t =>
    rw [hfetch] at hsafe
    obtain ⟨hi, ht, hin⟩ := hsafe
    exact meaning_ok (hi ▸ exec_meaning i) ht.store (controlOk_congr ht.control hc) ((congrArg Control.busy ht.control).trans hb)
      ((nextFormat_congr ht.control).trans hf) ((sequenceDone_congr ht.control).trans hd) hin
  | error e t =>
    rw [hfetch] at hsafe
    cases e with
    | raised e => exact machineInv_enterError hsafe e
    | fault _ => exact hsafe
    | refused _ => exact hsafe

/-- R9, R136, R150: what a step of the engine can do from a state of the invariant. -/
theorem engineStep_ok {s : State} (h : MachineInv s) : OutcomeOk (engineStep s) := by
  unfold engineStep
  split
  · rename_i hb
    split
    · obtain ⟨hs, hc⟩ := machineInv_iff.1 h
      exact buildBlockTables_ok hs hc
    · rename_i hd
      exact runElement_ok h hb (by simpa using hd)
  · exact h

/-! ## A step of the host -/

theorem keepBits_lt (w : Nat) (v : Data) : keepBits w v < 2 ^ w := Nat.mod_lt _ (Nat.two_pow_pos w)

/-- R21: a register the host writes keeps its width, and no other part of the invariant speaks of it. -/
theorem machineInv_writeReg (r : HostReg) (v : Data) {s : State} (h : MachineInv s) : MachineInv (writeReg r v s) := by
  obtain ⟨hs, hc⟩ := machineInv_iff.1 h
  obtain ⟨hin, hcur, hcap, hout, hib, hob⟩ := widthsOk_iff.1 hs.widths
  have ha := keepBits_lt s.cfg.addrW v
  have hb := keepBits_lt s.cfg.baseW v
  have hw : widthsOk (writeReg r v s) = true := by
    cases r with
    | ctrl => exact hs.widths
    | status => exact hs.widths
    | inLen => exact widthsOk_iff.2 ⟨ha, hcur, hcap, hout, hib, hob⟩
    | outCap => exact widthsOk_iff.2 ⟨hin, hcur, ha, hout, hib, hob⟩
    | byteOff => exact widthsOk_iff.2 ⟨hin, ha, hcap, hout, hib, hob⟩
    | bitOff => exact widthsOk_iff.2 ⟨hin, hcur, hcap, hout, hib, hob⟩
    | outPos => exact widthsOk_iff.2 ⟨hin, hcur, hcap, ha, hib, hob⟩
    | inBase => exact widthsOk_iff.2 ⟨hin, hcur, hcap, hout, hb, hob⟩
    | outBase => exact widthsOk_iff.2 ⟨hin, hcur, hcap, hout, hib, hb⟩
  have hrest : memoryOk (writeReg r v s) = memoryOk s ∧ tablesOk (writeReg r v s) = tablesOk s ∧
      control (writeReg r v s) = control s := by cases r <;> exact ⟨rfl, rfl, rfl⟩
  obtain ⟨hm, ht, hk⟩ := hrest
  exact machineInv_iff.2 ⟨⟨hm.trans hs.memory, ht.trans hs.tables, hw⟩, controlOk_congr hk hc⟩

/-- R44: a byte the host writes keeps the canonical form. -/
theorem machineInv_buffers {s : State} (h : MachineInv s) {m n : Memory} (hm : m.wf = true) (hn : n.wf = true) :
    MachineInv { s with inBuf := m, outBuf := n } := by
  obtain ⟨-, hrest⟩ := h
  exact ⟨by simp [memoryOk, hm, hn], hrest⟩

/-- R203: DECODE starts a run in a state of the invariant. -/
theorem machineInv_startActions {s : State} (h : MachineInv s) : MachineInv (startActions s) := by
  obtain ⟨hs, -⟩ := machineInv_iff.1 h
  exact machineInv_iff.2 ⟨⟨hs.memory, hs.tables, hs.widths⟩, ⟨by simp [sessionOk], by simp [sequenceOk], by simp [copyOk]⟩⟩

theorem machineInv_writeCtrl {v : Data} {s t : State} (h : MachineInv s) (hn : writeCtrl v s = .next t) : MachineInv t := by
  unfold writeCtrl at hn
  split at hn
  · rename_i i hi
    have hdec : i = .decode := by
      simp only [decode] at hi
      split at hi
      · cases hi
      · split at hi <;> cases hi
        rfl
    subst hdec
    obtain ⟨rfl, -⟩ := execDecode_next hn
    exact machineInv_startActions h
  · split at hn <;> cases hn
    exact h

theorem machineInv_hostAccess {a : HostAccess} {s t : State} (h : MachineInv s) (hn : hostAccess a s = .next t) : MachineInv t := by
  have hm := h.1
  simp only [memoryOk, Bool.and_eq_true] at hm
  unfold hostAccess at hn
  split at hn
  · exact machineInv_writeCtrl h hn
  · cases hn; exact h
  · split at hn <;> cases hn
    exact machineInv_writeReg _ _ h
  · split at hn <;> cases hn
    exact h
  · split at hn <;> cases hn
    exact machineInv_buffers h (Memory.write_wf _ _ hm.1) hm.2
  · split at hn <;> cases hn
    exact h
  · split at hn <;> cases hn
    exact machineInv_buffers h hm.1 (Memory.write_wf _ _ hm.2)
  · split at hn <;> cases hn
    exact h

/-- R44, R250: a reset meets the invariant, with the buffers as they were. -/
theorem machineInv_resetEngine {s : State} (h : memoryOk s = true) : MachineInv (resetEngine s) := by
  have ht : ∀ n lenW codeW, trieOk n (State.blankHuff n lenW codeW).nodes.toNat (State.blankHuff n lenW codeW).trie.toList = true :=
    fun n lenW codeW => by
      have := trieOk_replicate_empty n (2 * (n - 1))
      simpa [State.blankHuff] using this
  have hp := Nat.two_pow_pos
  have hw : widthsOk (resetEngine s) = true := widthsOk_iff.2 ⟨hp _, hp _, hp _, hp _, hp _, hp _⟩
  exact machineInv_iff.2 ⟨⟨h, tablesOk_iff.2 ⟨ht 19 3 7, ht 288 4 15, ht 32 4 15⟩, hw⟩,
    ⟨by simp [sessionOk, resetEngine, State.resetWith], by simp [sequenceOk, resetEngine, State.resetWith],
      by simp [copyOk, resetEngine, State.resetWith]⟩⟩

theorem engineStep_machineInv {s t : State} (h : MachineInv s) (hn : engineStep s = .next t) : MachineInv t := by
  have := engineStep_ok h
  rwa [hn] at this

/-- Settles O46: the engine keeps the invariant element by element, and the host access by access. -/
theorem stepKeepsInvariant : Obligations.StepKeepsInvariant := by
  intro s t h hn
  unfold step platformStep at hn
  split at hn
  · exact engineStep_machineInv h hn
  · exact machineInv_hostAccess (by exact h) hn
  · exact engineStep_machineInv (by exact h) hn
  · split at hn
    · cases hn; exact h
    · exact engineStep_machineInv h hn
  · cases hn; exact machineInv_resetEngine h.1

/-- Settles O51: of the outcomes a step of the engine can have from a state of the invariant, the one stop is OUT_POS. -/
theorem onlyOutputOverflowStopsTheEngine : Obligations.OnlyOutputOverflowStopsTheEngine := by
  intro s h
  have hok := engineStep_ok h
  refine ⟨fun f hf => ?_, fun r hr => ?_⟩
  · rwa [hf] at hok
  · rwa [hr] at hok

end Sys2Proof.Machine
end

section
/-! SUPPORT. Two runs side by side: what the shared operations do depends on nothing a session leaves (spec R12, R45). -/

namespace Sys2Proof.Machine

/-- What the shared operations read and write: the parameters, the host's registers, the cursor, OUT_POS, STATUS and the buffers. -/
structure Outer where
  cfg : Config
  regs : HostRegs
  cur : Cursor
  outPos : Nat
  status : Status
  inBuf : Memory
  outBuf : Memory

/-- The outer part of a state. -/
def outer (s : State) : Outer :=
  { cfg := s.cfg, regs := s.regs, cur := s.cur, outPos := s.outPos, status := s.status, inBuf := s.inBuf, outBuf := s.outBuf }

/-- The registers that the shared operations leave alone and that an element or a later one reads. -/
structure Session where
  blk : BlockState
  loopAt : LoopPos
  bfinal : BitVec 1
  hlit : BitVec 9
  hdist : BitVec 6
  lenR : BitVec 16
  nlenR : BitVec 16
  seq : SeqRegs
  clLens : Vector (BitVec 3) 19
  clTrie : Vector Slot (2 * (19 - 1))
  llTrie : Vector Slot (2 * (288 - 1))
  distTrie : Vector Slot (2 * (32 - 1))
  mlen : BitVec 9

/-- The session part of a state. -/
def session (s : State) : Session :=
  { blk := s.blk, loopAt := s.loopAt, bfinal := s.hdr.bfinal, hlit := s.hdr.hlit, hdist := s.hdr.hdist
    lenR := s.hdr.lenR, nlenR := s.hdr.nlenR, seq := s.seq
    clLens := s.cl.lens, clTrie := s.cl.trie, llTrie := s.ll.trie, distTrie := s.dist.trie, mlen := s.syms.mlen }

section
variable {s t : State} (h : outer s = outer t)
include h

theorem cfg_of_outer : s.cfg = t.cfg := congrArg Outer.cfg h
theorem regs_of_outer : s.regs = t.regs := congrArg Outer.regs h
theorem cur_of_outer : s.cur = t.cur := congrArg Outer.cur h
theorem outPos_of_outer : s.outPos = t.outPos := congrArg Outer.outPos h
theorem status_of_outer : s.status = t.status := congrArg Outer.status h
theorem inBuf_of_outer : s.inBuf = t.inBuf := congrArg Outer.inBuf h
theorem outBuf_of_outer : s.outBuf = t.outBuf := congrArg Outer.outBuf h

end

/-! ## Both runs of an operation -/

/-- The two runs end alike: with the same value in states related by `Q`, or stopped for the same reason with the same outer state. -/
def Both {α : Type} (m n : M α) (s t : State) (Q : α → State → State → Prop) : Prop :=
  match m s, n t with
  | .ok a s', .ok b t' => a = b ∧ Q a s' t'
  | .error e s', .error e' t' => e = e' ∧ outer s' = outer t'
  | _, _ => False

section
variable {α β γ : Type} {s t : State}

theorem Both.of_ok {m n : M α} {a : α} {s' t' : State} {Q : α → State → State → Prop} (hm : m s = .ok a s') (hn : n t = .ok a t')
    (hQ : Q a s' t') : Both m n s t Q := by
  unfold Both; rw [hm, hn]; exact ⟨rfl, hQ⟩

theorem Both.of_error {m n : M α} {e : Stop} {s' t' : State} {Q : α → State → State → Prop} (hm : m s = .error e s')
    (hn : n t = .error e t') (h : outer s' = outer t') : Both m n s t Q := by
  unfold Both; rw [hm, hn]; exact ⟨rfl, h⟩

theorem Both.raise {e : ErrKind} {Q : α → State → State → Prop} (h : outer s = outer t) :
    Both (Machine.raise e) (Machine.raise e) s t Q := .of_error rfl rfl h

/-- One operation in both runs, then the rest of the element. -/
theorem Both.bind {m n : M α} {f g : α → M β} {Q : β → State → State → Prop}
    (h : Both m n s t fun a s' t' => Both (f a) (g a) s' t' Q) : Both (m >>= f) (n >>= g) s t Q := by
  unfold Both at h ⊢
  rw [bind_apply, bind_apply]
  cases hm : m s <;> cases hn : n t <;> simp only [hm, hn] at h ⊢
  · obtain ⟨rfl, h⟩ := h
    exact h
  · exact h

/-- An operation that cannot stop, in both runs; it may give the two runs values of their own. -/
theorem Both.bind_ok {m : M α} {n : M γ} {f : α → M β} {g : γ → M β} {a : α} {b : γ} {s' t' : State}
    {Q : β → State → State → Prop} (hm : m s = .ok a s') (hn : n t = .ok b t') (h : Both (f a) (g b) s' t' Q) :
    Both (m >>= f) (n >>= g) s t Q := by
  unfold Both at h ⊢
  rw [bind_apply, bind_apply, hm, hn]
  exact h

theorem Both.mono {m n : M α} {P Q : α → State → State → Prop} (h : Both m n s t P) (hPQ : ∀ a s' t', P a s' t' → Q a s' t') :
    Both m n s t Q := by
  unfold Both at h ⊢
  cases hm : m s <;> cases hn : n t <;> simp only [hm, hn] at h ⊢
  · exact ⟨h.1, hPQ _ _ _ h.2⟩
  · exact h

theorem Both.ite {p q : Prop} [Decidable p] [Decidable q] {m m' n n' : M α} {Q : α → State → State → Prop} (hpq : p ↔ q)
    (hm : p → Both m n s t Q) (hn : ¬p → Both m' n' s t Q) : Both (if p then m else m') (if q then n else n') s t Q := by
  by_cases hp : p
  · rw [if_pos hp, if_pos (hpq.1 hp)]; exact hm hp
  · rw [if_neg hp, if_neg (fun hq => hp (hpq.2 hq))]; exact hn hp

end

/-- After a shared operation: the outer states agree again and each session is as it was. -/
structure Kept (s t s' t' : State) : Prop where
  outer : outer s' = outer t'
  left : session s' = session s
  right : session t' = session t

theorem Kept.trans {s t s' t' s'' t'' : State} (h : Kept s t s' t') (h' : Kept s' t' s'' t'') : Kept s t s'' t'' :=
  ⟨h'.outer, h'.left.trans h.left, h'.right.trans h.right⟩

/-- What the two sessions agree in, they still agree in. -/
theorem Kept.agree {s t s' t' : State} (hk : Kept s t s' t') {α : Type} (reg : Session → α)
    (h : reg (session s) = reg (session t)) : reg (session s') = reg (session t') := by
  rw [hk.left, hk.right, h]

/-- The operation depends on the outer state alone and leaves the session as it is. -/
def Lockstep {α : Type} (m : M α) : Prop := ∀ s t, outer s = outer t → Both m m s t fun _ s' t' => Kept s t s' t'

theorem Lockstep.bind {α β : Type} {m : M α} {f : α → M β} (hm : Lockstep m) (hf : ∀ a, Lockstep (f a)) : Lockstep (m >>= f) :=
  fun s t h => .bind ((hm s t h).mono fun a s' t' hk => (hf a s' t' hk.outer).mono fun _ _ _ hk' => hk.trans hk')

theorem Lockstep.pure {α : Type} (a : α) : Lockstep (pure a : M α) := fun _ _ h => .of_ok rfl rfl ⟨h, rfl, rfl⟩

theorem Lockstep.modify {f : State → State} (ho : ∀ s, outer (f s) = outer s) (hs : ∀ s, session (f s) = session s) :
    Lockstep (modify f) := fun s t h => .of_ok rfl rfl ⟨(ho s).trans (h.trans (ho t).symm), hs s, hs t⟩

/-- One shared operation, then the rest of the element. -/
theorem Lockstep.andThen {α β : Type} {m : M α} {f g : α → M β} {s t : State} {Q : β → State → State → Prop} (hm : Lockstep m)
    (h : outer s = outer t) (hf : ∀ a s' t', Kept s t s' t' → Both (f a) (g a) s' t' Q) : Both (m >>= f) (m >>= g) s t Q :=
  .bind ((hm s t h).mono hf)

/-- The same, where the two runs' arguments are known to agree. -/
theorem Lockstep.andThen_of_eq {α β : Type} {m n : M α} {f g : α → M β} {s t : State} {Q : β → State → State → Prop} (hm : Lockstep m)
    (hmn : m = n) (h : outer s = outer t) (hf : ∀ a s' t', Kept s t s' t' → Both (f a) (g a) s' t' Q) :
    Both (m >>= f) (n >>= g) s t Q :=
  hmn ▸ hm.andThen h hf

/-! ## The shared operations -/

theorem lockstep_advanceByte : Lockstep advanceByte := fun s t h => by
  have hcur := cur_of_outer h
  have hcfg := cfg_of_outer h
  by_cases hw : s.cur.byteOff + 1 < 2 ^ s.cfg.addrW
  · refine .of_ok (advanceByte_ok hw) (advanceByte_ok (by rwa [← hcur, ← hcfg])) ⟨?_, rfl, rfl⟩
    simpa [outer, hcur] using h
  · exact .of_error (advanceByte_fault (not_lt.1 hw)) (advanceByte_fault (by rw [← hcur, ← hcfg]; exact not_lt.1 hw)) h

theorem lockstep_readBit : Lockstep readBit := fun s t h => by
  have hcur := cur_of_outer h
  unfold readBit
  refine .bind_ok rfl rfl (.ite (by rw [hcur, regs_of_outer h]) (fun _ => .raise h) fun _ => ?_)
  rw [hcur, inBuf_of_outer h]
  refine .ite Iff.rfl (fun _ => (lockstep_advanceByte.bind fun _ => .pure _) s t h) fun _ => ?_
  refine .bind_ok rfl rfl (.of_ok rfl rfl ⟨?_, rfl, rfl⟩)
  simp only [outer, Outer.mk.injEq] at h ⊢
  simp [h]

theorem lockstep_readLsb (n : Nat) : Lockstep (readLsb n) := by
  induction n with
  | zero => exact .pure 0
  | succ n ih => exact lockstep_readBit.bind fun _ => ih.bind fun _ => .pure _

theorem lockstep_readMsb_one : Lockstep (readMsb 1) := lockstep_readBit.bind fun _ => .pure _

theorem lockstep_alignToByte : Lockstep alignToByte := fun s t h =>
  .bind_ok rfl rfl (.ite (by rw [cur_of_outer h]) (fun _ => lockstep_advanceByte s t h) fun _ => Lockstep.pure () s t h)

theorem lockstep_readByte : Lockstep readByte := fun s t h => by
  unfold readByte
  refine .bind_ok rfl rfl (.ite (by rw [cur_of_outer h, regs_of_outer h]) (fun _ => .raise h) fun _ => ?_)
  rw [cur_of_outer h, inBuf_of_outer h]
  exact (lockstep_advanceByte.bind fun _ => .pure _) s t h

theorem lockstep_readLe16 : Lockstep readLe16 := lockstep_readByte.bind fun _ => lockstep_readByte.bind fun _ => .pure _

theorem lockstep_sinkWrite (v : Byte) : Lockstep (sinkWrite v) := fun s t h => by
  have hout := outPos_of_outer h
  have hcfg := cfg_of_outer h
  have hses : ∀ u : State, session (afterSink v u) = session u := fun u => by rw [afterSink_eq]; rfl
  by_cases hw : s.outPos + 1 < 2 ^ s.cfg.addrW
  · refine .of_ok (sinkWrite_ok v hw) (sinkWrite_ok v (by rwa [← hout, ← hcfg])) ⟨?_, hses s, hses t⟩
    simp only [outer, Outer.mk.injEq] at h
    obtain ⟨-, hregs, hcur, -, hstatus, hin, hob⟩ := h
    unfold afterSink
    rw [hout, hregs]
    split <;> simp [outer, *]
  · exact .of_error (sinkWrite_fault v (not_lt.1 hw)) (sinkWrite_fault v (by rw [← hout, ← hcfg]; exact not_lt.1 hw)) h

theorem lockstep_setCopyLeft (n : Nat) : Lockstep (setCopyLeft n) := .modify (fun _ => rfl) fun _ => rfl

theorem copySource_congr {s t : State} (h : outer s = outer t) (a : Nat) : copySource s a = copySource t a := by
  rw [copySource, copySource, regs_of_outer h, outBuf_of_outer h, outPos_of_outer h]

theorem lockstep_copyBytes (dist n : Nat) : Lockstep (copyBytes dist n) := by
  induction n with
  | zero => exact .pure ()
  | succ n ih =>
    intro s t h
    refine .bind_ok rfl rfl ?_
    rw [copySource_congr h, outPos_of_outer h]
    exact ((lockstep_sinkWrite _).bind fun _ => (lockstep_setCopyLeft n).bind fun _ => ih) s t h

theorem lockstep_copyBackReference (len dist : Nat) : Lockstep (copyBackReference len dist) :=
  (lockstep_setCopyLeft len).bind fun _ => lockstep_copyBytes dist len

theorem lockstep_storedBytes (n : Nat) : Lockstep (storedBytes n) := by
  induction n with
  | zero => exact .pure ()
  | succ n ih =>
    exact lockstep_readByte.bind fun b => (lockstep_sinkWrite b).bind fun _ => (lockstep_setCopyLeft n).bind fun _ => ih

theorem lockstep_walkTrie (tab : List Slot) (fuel k : Nat) : Lockstep (walkTrie tab fuel k) := by
  induction fuel generalizing k with
  | zero => exact fun _ _ h => .of_error rfl rfl h
  | succ fuel ih =>
    refine Lockstep.bind (.modify (fun _ => rfl) fun _ => rfl) fun _ => lockstep_readMsb_one.bind fun bit => ?_
    split
    · exact fun _ _ h => .raise h
    · exact .pure _
    · exact ih _

theorem lockstep_decodeSymbol (tab : List Slot) : Lockstep (decodeSymbol tab) := fun s t h => by
  refine .bind_ok rfl rfl ?_
  have hb : bitsLeft s = bitsLeft t := by rw [bitsLeft, bitsLeft, regs_of_outer h, cur_of_outer h]
  rw [hb]
  exact lockstep_walkTrie tab _ 0 s t h

theorem lockstep_latchSym (sym : Nat) : Lockstep (latchSym sym) := .modify (fun _ => rfl) fun _ => rfl

end Sys2Proof.Machine
end

section
/-! SUPPORT. Two runs of a DECODE agree in every register that an element reads before it is written, and so in everything the host
can see (spec R12, R45, R203). -/

namespace Sys2Proof.Machine

/-! ## The registers that count between two elements -/

/-- R158, R180: STATE is one of the two Huffman blocks. -/
def InBlock (x : Session) : Prop := x.blk = .fixedBlock ∨ x.blk = .dynamicBlock

/-- R161: the registers that count while a dynamic block reads its length sequence. Of LENSEQ only the entries below TOTAL do. -/
structure SameSequence (x y : Session) : Prop where
  hlit : x.hlit = y.hlit
  hdist : x.hdist = y.hdist
  lsI : x.seq.lsI = y.seq.lsI
  clTrie : x.clTrie = y.clTrie
  lens : x.seq.lenSeq.toList.take (x.hlit.toNat + x.hdist.toNat) = y.seq.lenSeq.toList.take (x.hlit.toNat + x.hdist.toNat)

/-- The two sessions agree in the registers that count at STATE and the loop position. -/
structure SessionAlike (x y : Session) : Prop where
  blk : x.blk = y.blk
  bfinal : InBlock x → x.bfinal = y.bfinal
  loopAt : InBlock x → x.loopAt = y.loopAt
  mlen : InBlock x → x.loopAt = .distance → x.mlen = y.mlen
  sequence : x.blk = .dynamicBlock → x.loopAt = .lengths → SameSequence x y
  tables : x.blk = .dynamicBlock → x.loopAt ≠ .lengths → x.llTrie = y.llTrie ∧ x.distTrie = y.distTrie

/-- The two states agree in everything that can reach the host. -/
structure Alike (s t : State) : Prop where
  outer : outer s = outer t
  session : SessionAlike (session s) (session t)

theorem Alike.kept {s t s' t' : State} (h : Alike s t) (hk : Kept s t s' t') : Alike s' t' :=
  ⟨hk.outer, by rw [hk.left, hk.right]; exact h.session⟩

/-- Outside the Huffman blocks no session register counts. -/
theorem Alike.of_blk {s t : State} (h : Machine.outer s = Machine.outer t) (hb : s.blk = t.blk) (hs : ¬ InBlock (Machine.session s)) :
    Alike s t :=
  ⟨h, hb, fun hi => absurd hi hs, fun hi => absurd hi hs, fun hi => absurd hi hs, fun hd => absurd (.inr hd) hs,
    fun hd => absurd (.inr hd) hs⟩

theorem SessionAlike.toSymbols {x y : Session} (h : SessionAlike x y) (hb : InBlock x) (hl : x.loopAt ≠ .lengths) :
    SessionAlike { x with loopAt := .symbols } { y with loopAt := .symbols } :=
  ⟨h.blk, fun _ => h.bfinal hb, fun _ => rfl, fun _ hd => (nomatch hd), fun _ hd => (nomatch hd), fun hd _ => h.tables hd hl⟩

theorem SessionAlike.toDistance {x y : Session} (h : SessionAlike x y) (hb : InBlock x) (hl : x.loopAt ≠ .lengths) (m : BitVec 9) :
    SessionAlike { x with mlen := m, loopAt := .distance } { y with mlen := m, loopAt := .distance } :=
  ⟨h.blk, fun _ => h.bfinal hb, fun _ => rfl, fun _ _ => rfl, fun _ hd => (nomatch hd), fun hd _ => h.tables hd hl⟩

/-- The two outcomes of an element agree. -/
def SameEnd : Host.Outcome State Fault Refusal → Host.Outcome State Fault Refusal → Prop
  | .next s, .next t => Alike s t
  | .fault f, .fault g => f = g
  | .refused r, .refused q => r = q
  | _, _ => False

theorem alike_enterError {s t : State} (h : outer s = outer t) (e : ErrKind) : Alike (enterError e s) (enterError e t) := by
  refine .of_blk ?_ rfl (by simp [InBlock, session])
  simp only [outer, Outer.mk.injEq] at h
  simp [outer, h]

theorem Both.finish {m : M Unit} {s t : State} (h : Both m m s t fun _ => Alike) : SameEnd (finish m s) (finish m t) := by
  unfold Both at h
  unfold Machine.finish
  cases hs : m s <;> cases ht : m t <;> simp only [hs, ht] at h
  · exact h.2
  · obtain ⟨rfl, ho⟩ := h
    rename_i e _ _
    cases e with
    | raised e => exact alike_enterError ho e
    | fault f => exact rfl
    | refused r => exact rfl

theorem Lockstep.alike {m : M Unit} (hm : Lockstep m) {s t : State} (h : Alike s t) : Both m m s t fun _ => Alike :=
  (hm s t h.outer).mono fun _ _ _ hk => h.kept hk

/-! ## Block headers: they read nothing of the session -/

theorem both_endOfBlock {s t : State} (h : outer s = outer t) (hb : s.hdr.bfinal = t.hdr.bfinal) :
    Both endOfBlock endOfBlock s t fun _ => Alike := by
  refine .of_ok rfl rfl ?_
  dsimp only
  rw [hb]
  split
  · refine .of_blk ?_ rfl (by simp [InBlock, session])
    simp only [outer, Outer.mk.injEq] at h
    simp [outer, h]
  · exact .of_blk h rfl (by simp [InBlock, session])

theorem both_storedBody {s t : State} (h : outer s = outer t) (hl : s.hdr.lenR = t.hdr.lenR) (hn : s.hdr.nlenR = t.hdr.nlenR) :
    Both storedBody storedBody s t fun _ s' t' => Kept s t s' t' := by
  refine .bind_ok rfl rfl (.ite (by rw [hl, hn]) (fun _ => .raise h) fun _ => ?_)
  rw [hl]
  exact ((lockstep_setCopyLeft _).bind fun _ => lockstep_storedBytes _) s t h

theorem execStored_alike (b : Bool) {s t : State} (h : outer s = outer t) : SameEnd (execStored b s) (execStored b t) := by
  refine Both.finish (.bind_ok rfl rfl (.bind_ok rfl rfl ?_))
  refine lockstep_alignToByte.andThen (by exact h) fun _ s1 t1 h1 => ?_
  refine lockstep_readLe16.andThen h1.outer fun len s2 t2 h2 => .bind_ok rfl rfl ?_
  refine lockstep_readLe16.andThen (by exact h2.outer) fun nlen s3 t3 h3 => .bind_ok rfl rfl ?_
  have hl : s3.hdr.lenR = t3.hdr.lenR := h3.agree Session.lenR rfl
  refine .bind (Both.mono (both_storedBody (by exact h3.outer) (by exact hl) rfl) fun _ s4 t4 h4 => ?_)
  refine both_endOfBlock h4.outer (h4.agree Session.bfinal (h3.agree Session.bfinal (h2.agree Session.bfinal ?_)))
  exact h1.agree Session.bfinal rfl

theorem execFixed_alike (b : Bool) {s t : State} (h : outer s = outer t) : SameEnd (execFixed b s) (execFixed b t) :=
  Both.finish (.bind_ok rfl rfl (.of_ok rfl rfl
    ⟨h, rfl, fun _ => rfl, fun _ => rfl, fun _ hd => (nomatch hd), fun hd => (nomatch hd), fun hd => (nomatch hd)⟩))

theorem execReserved_alike (b : Bool) {s t : State} (h : outer s = outer t) : SameEnd (execReserved b s) (execReserved b t) :=
  Both.finish (.bind_ok rfl rfl (.raise h))

/-- The two runs agree in what the header of a dynamic block has read so far (R158). -/
structure HeaderAlike (s t : State) : Prop where
  outer : outer s = outer t
  left : s.blk = .dynamicBlock
  right : t.blk = .dynamicBlock
  bfinal : s.hdr.bfinal = t.hdr.bfinal
  hlit : s.hdr.hlit = t.hdr.hlit
  hdist : s.hdr.hdist = t.hdr.hdist

theorem HeaderAlike.kept {s t s' t' : State} (h : HeaderAlike s t) (hk : Kept s t s' t') : HeaderAlike s' t' :=
  ⟨hk.outer, (congrArg Session.blk hk.left).trans h.left, (congrArg Session.blk hk.right).trans h.right,
    hk.agree Session.bfinal h.bfinal, hk.agree Session.hlit h.hlit, hk.agree Session.hdist h.hdist⟩

theorem vector_ext_tabGet {α : Type} {n : Nat} {v w : Vector α n} (d : α) (h : ∀ k, tabGet v k d = tabGet w k d) : v = w := by
  ext i hi
  have := h i
  simpa [tabGet, hi] using this

/-- R159: after the code-length lengths are read, nothing is left of the earlier ones. -/
theorem both_readClLengths (order : List Nat) (n : Nat) {s t : State} (h : HeaderAlike s t)
    (hl : ∀ k, k ∉ order → tabGet s.cl.lens k 0 = tabGet t.cl.lens k 0) :
    Both (readClLengths order n) (readClLengths order n) s t fun _ s' t' => HeaderAlike s' t' ∧ s'.cl.lens = t'.cl.lens := by
  induction order generalizing n s t with
  | nil => exact .of_ok rfl rfl ⟨h, vector_ext_tabGet 0 fun k => hl k (by simp)⟩
  | cons p order ih =>
    refine (lockstep_readLsb _).andThen h.outer fun v s1 t1 h1 => .bind_ok rfl rfl (ih _ ?_ fun k hk => ?_)
    · obtain ⟨ho, hb, hb', hf, hli, hd⟩ := h.kept h1
      exact ⟨ho, hb, hb', hf, hli, hd⟩
    · show tabGet (tabSet s1.cl.lens p _) k 0 = tabGet (tabSet t1.cl.lens p _) k 0
      rw [tabGet_tabSet, tabGet_tabSet]
      have hs1 : s1.cl.lens = s.cl.lens := congrArg Session.clLens h1.left
      have ht1 : t1.cl.lens = t.cl.lens := congrArg Session.clLens h1.right
      by_cases hkp : k = p
      · subst hkp
        by_cases hk19 : k < 19
        · rw [if_pos ⟨rfl, hk19⟩, if_pos ⟨rfl, hk19⟩]
        · simp [hk19, tabGet]
      · rw [if_neg (fun e => hkp e.1), if_neg (fun e => hkp e.1), hs1, ht1]
        exact hl k (by simp [hkp, hk])

/-- What a table holds depends on the lengths alone, where it can be built. -/
theorem buildTable_congr {n lenW codeW : Nat} (maxLen : Nat) {h h' : Huff n lenW codeW} (hl : h.lens = h'.lens) (sc sc' : Scratch) :
    (buildTable maxLen h sc).ok = (buildTable maxLen h' sc').ok ∧
      ((buildTable maxLen h sc).ok = true → (buildTable maxLen h sc).huff.trie = (buildTable maxLen h' sc').huff.trie) := by
  have he : lensOf h = lensOf h' := by rw [lensOf, lensOf, hl]
  unfold buildTable
  rw [he]
  dsimp only
  split
  · split <;> exact ⟨rfl, fun _ => rfl⟩
  · exact ⟨rfl, fun hf => nomatch hf⟩

theorem both_buildClTable {s t : State} (h : HeaderAlike s t) (hl : s.cl.lens = t.cl.lens) :
    Both buildClTable buildClTable s t fun _ s' t' => HeaderAlike s' t' ∧ s'.cl.trie = t'.cl.trie := by
  obtain ⟨hok, htrie⟩ := buildTable_congr 7 hl s.scratch t.scratch
  obtain ⟨ho, hb, hb', hf, hli, hd⟩ := h
  refine .bind_ok rfl rfl (.bind_ok rfl rfl (.ite (by rw [hok]) (fun hr => ?_) fun _ => .raise ho))
  exact .of_ok rfl rfl ⟨⟨ho, hb, hb', hf, hli, hd⟩, htrie hr⟩

theorem take_startSequence (n : Nat) (v w : Vector (BitVec 4) 320) :
    (tabOfList 320 (List.replicate n 0 ++ v.toList.drop n) 0).toList.take n =
      (tabOfList 320 (List.replicate n 0 ++ w.toList.drop n) 0).toList.take n := by
  have hrep : ∀ u : Vector (BitVec 4) 320, (tabOfList 320 (List.replicate n 0 ++ u.toList.drop n) 0).toList.take n =
      (List.replicate n 0).take (min n 320) := fun u => by
    rw [toList_tabOfList, List.take_take, List.append_assoc, List.take_append_of_le_length (by simp)]
  rw [hrep, hrep]

theorem both_startSequence {s t : State} (h : HeaderAlike s t) (ht : s.cl.trie = t.cl.trie) :
    Both startSequence startSequence s t fun _ => Alike := by
  obtain ⟨ho, hb, hb', hf, hl, hd⟩ := h
  refine .of_ok rfl rfl ⟨ho, hb.trans hb'.symm, fun _ => hf, fun _ => rfl, fun _ he => (nomatch he), fun _ _ => ?_,
    fun _ he => absurd rfl he⟩
  refine ⟨hl, hd, rfl, ht, ?_⟩
  have htot : seqTotal t = seqTotal s := by rw [seqTotal, seqTotal, hl, hd]
  show (tabOfList 320 _ 0).toList.take (seqTotal s) = (tabOfList 320 _ 0).toList.take (seqTotal s)
  rw [htot]
  exact take_startSequence _ _ _

theorem execDynamic_alike (b : Bool) {s t : State} (h : outer s = outer t) : SameEnd (execDynamic b s) (execDynamic b t) := by
  refine Both.finish (.bind_ok rfl rfl (.bind_ok rfl rfl ?_))
  refine (lockstep_readLsb 5).andThen (by exact h) fun f s1 t1 h1 => .bind_ok rfl rfl ?_
  refine (lockstep_readLsb 5).andThen (by exact h1.outer) fun g s2 t2 h2 => .bind_ok rfl rfl ?_
  refine (lockstep_readLsb 4).andThen (by exact h2.outer) fun c s3 t3 h3 => .bind_ok rfl rfl ?_
  have hs3 : s3.blk = .dynamicBlock :=
    (congrArg Session.blk h3.left).trans ((congrArg Session.blk h2.left).trans (congrArg Session.blk h1.left))
  have ht3 : t3.blk = .dynamicBlock :=
    (congrArg Session.blk h3.right).trans ((congrArg Session.blk h2.right).trans (congrArg Session.blk h1.right))
  have hf : s3.hdr.bfinal = t3.hdr.bfinal :=
    h3.agree Session.bfinal (h2.agree Session.bfinal (h1.agree Session.bfinal rfl))
  have hl : s3.hdr.hlit = t3.hdr.hlit := h3.agree Session.hlit (h2.agree Session.hlit rfl)
  have hd : s3.hdr.hdist = t3.hdr.hdist := h3.agree Session.hdist rfl
  refine .bind (Both.mono (both_readClLengths clclOrder _ ⟨h3.outer, hs3, ht3, hf, hl, hd⟩ ?_) fun _ s4 t4 ⟨h4, hcl⟩ => ?_)
  · intro k hk
    have hall : ∀ k < 19, k ∈ clclOrder := by decide
    have hk19 : 19 ≤ k := not_lt.1 fun e => hk (hall k e)
    simp [tabGet, hk19]
  · exact .bind ((both_buildClTable h4 hcl).mono fun _ s5 t5 ⟨h5, htrie⟩ => both_startSequence h5 htrie)

/-! ## Symbols -/

theorem execLit_alike (sym : BitVec 9) {s t : State} (h : Alike s t) : SameEnd (execLit sym s) (execLit sym t) :=
  Both.finish (((lockstep_latchSym _).bind fun _ => lockstep_sinkWrite _).alike h)

theorem execEob_alike {s t : State} (h : Alike s t) (hb : InBlock (session s)) : SameEnd (execEob s) (execEob t) :=
  Both.finish ((lockstep_latchSym _).andThen h.outer fun _ _ _ hk =>
    both_endOfBlock hk.outer (hk.agree Session.bfinal (h.session.bfinal hb)))

theorem copyLength_alike (j : Nat) {s t : State} (h : Alike s t) (hb : InBlock (session s)) (hl : s.loopAt ≠ .lengths) :
    SameEnd (finish (copyLength j) s) (finish (copyLength j) t) := by
  refine Both.finish ((lockstep_latchSym _).andThen h.outer fun _ s1 t1 h1 => .ite Iff.rfl (fun _ => .raise h1.outer) fun _ => ?_)
  refine (lockstep_readLsb _).andThen h1.outer fun x s2 t2 h2 => .of_ok rfl rfl ⟨h2.outer, ?_⟩
  have hk := h1.trans h2
  show SessionAlike { session s2 with mlen := _, loopAt := .distance } { session t2 with mlen := _, loopAt := .distance }
  rw [hk.left, hk.right]
  exact h.session.toDistance hb hl _

theorem copyDistance_alike (k : Nat) {s t : State} (h : Alike s t) (hb : InBlock (session s)) (hl : s.loopAt = .distance) :
    SameEnd (finish (copyDistance k) s) (finish (copyDistance k) t) := by
  refine Both.finish (.bind_ok rfl rfl (.ite Iff.rfl (fun _ => .raise h.outer) fun _ => ?_))
  refine (lockstep_readLsb _).andThen (by exact h.outer) fun x s1 t1 h1 => .bind_ok rfl rfl (.bind_ok rfl rfl ?_)
  have hm : s1.syms.mlen = t1.syms.mlen := h1.agree Session.mlen (h.session.mlen hb hl)
  refine .ite (by show s1.outPos < _ ↔ t1.outPos < _; rw [outPos_of_outer h1.outer]) (fun _ => .raise h1.outer) fun _ => ?_
  refine (lockstep_copyBackReference _ _).andThen_of_eq (by dsimp only; rw [hm]) (by exact h1.outer)
    fun _ s2 t2 h2 => .of_ok rfl rfl ⟨h2.outer, ?_⟩
  show SessionAlike { session s2 with loopAt := .symbols } { session t2 with loopAt := .symbols }
  rw [h2.left, h2.right]
  show SessionAlike { session s1 with loopAt := .symbols } { session t1 with loopAt := .symbols }
  rw [h1.left, h1.right]
  exact h.session.toSymbols hb (by rw [show (session s).loopAt = s.loopAt from rfl, hl]; decide)

/-! ## The length sequence -/

/-- Both runs read the length sequence of a dynamic block (R161). -/
structure SequenceAlike (s t : State) : Prop where
  alike : Alike s t
  blk : s.blk = .dynamicBlock
  loopAt : s.loopAt = .lengths

theorem SequenceAlike.same {s t : State} (h : SequenceAlike s t) : SameSequence (session s) (session t) :=
  h.alike.session.sequence h.blk h.loopAt

theorem SequenceAlike.kept {s t s' t' : State} (h : SequenceAlike s t) (hk : Kept s t s' t') : SequenceAlike s' t' :=
  ⟨h.alike.kept hk, (congrArg Session.blk hk.left).trans h.blk, (congrArg Session.loopAt hk.left).trans h.loopAt⟩

theorem SequenceAlike.seqTotal {s t : State} (h : SequenceAlike s t) : seqTotal s = seqTotal t := by
  have hl : s.hdr.hlit = t.hdr.hlit := h.same.hlit
  have hd : s.hdr.hdist = t.hdr.hdist := h.same.hdist
  rw [Machine.seqTotal, Machine.seqTotal, hl, hd]

theorem both_putLength (c : BitVec 4) {s t : State} (h : SequenceAlike s t) :
    Both (putLength c) (putLength c) s t fun _ => SequenceAlike := by
  obtain ⟨hl, hd, hi, ht, hlens⟩ := h.same
  obtain ⟨⟨ho, hses⟩, hb, hp⟩ := h
  have hi' : s.seq.lsI = t.seq.lsI := hi
  refine .of_ok rfl rfl ⟨⟨ho, hses.blk, hses.bfinal, hses.loopAt, hses.mlen, fun _ _ => ⟨hl, hd, ?_, ht, ?_⟩, hses.tables⟩, hb, hp⟩
  · show s.seq.lsI + 1#9 = t.seq.lsI + 1#9
    rw [hi']
  · show (tabSet s.seq.lenSeq s.seq.lsI.toNat c).toList.take _ = (tabSet t.seq.lenSeq t.seq.lsI.toNat c).toList.take _
    rw [toList_tabSet, toList_tabSet, List.take_set, List.take_set, hi']
    exact congrArg (fun l => List.set l t.seq.lsI.toNat c) hlens

theorem both_putLengths (c : BitVec 4) (r : Nat) {s t : State} (h : SequenceAlike s t) :
    Both (putLengths c r) (putLengths c r) s t fun _ => SequenceAlike := by
  induction r generalizing s t with
  | zero => exact .of_ok rfl rfl h
  | succ r ih => exact .bind ((both_putLength c h).mono fun _ _ _ h' => ih h')

/-- R163: a run whose length may be read from the sequence counts only where it is within TOTAL. -/
theorem both_putRun {c d : BitVec 4} (r : Nat) {s t : State} (h : SequenceAlike s t)
    (hcd : s.seq.lsI.toNat + r ≤ seqTotal s → c = d) : Both (putRun c r) (putRun d r) s t fun _ => Alike := by
  have hi : s.seq.lsI = t.seq.lsI := h.same.lsI
  refine .bind_ok rfl rfl (.ite (by rw [h.seqTotal, hi]) (fun _ => .raise h.alike.outer) fun hr => ?_)
  rw [hcd (not_lt.1 hr)]
  exact (both_putLengths d r h).mono fun _ _ _ h' => h'.alike

theorem execClLit_alike (c : BitVec 5) {s t : State} (h : SequenceAlike s t) : SameEnd (execClLit c s) (execClLit c t) :=
  Both.finish ((both_putLength _ h).mono fun _ _ _ h' => h'.alike)

theorem execRepPrev_alike {s t : State} (h : SequenceAlike s t) : SameEnd (execRepPrev s) (execRepPrev t) := by
  refine Both.finish ((lockstep_readLsb 2).andThen h.alike.outer fun x s1 t1 h1 => .bind_ok rfl rfl ?_)
  have h' := h.kept h1
  obtain ⟨-, -, hi, -, hlens⟩ := h'.same
  have hi' : s1.seq.lsI = t1.seq.lsI := hi
  refine .ite (by rw [hi']) (fun _ => .raise h1.outer) fun _ => both_putRun _ h' fun hr => ?_
  have hlt : s1.seq.lsI.toNat - 1 < seqTotal s1 := by unfold repPrevCount at hr; omega
  have htake : ∀ l : List (BitVec 4), l.getD (s1.seq.lsI.toNat - 1) 0 = (l.take (seqTotal s1)).getD (s1.seq.lsI.toNat - 1) 0 :=
    fun l => by rw [List.getD_eq_getElem?_getD, List.getD_eq_getElem?_getD, List.getElem?_take_of_lt hlt]
  rw [tabGet, tabGet, ← hi', htake, htake t1.seq.lenSeq.toList]
  exact congrArg (fun l => List.getD l (s1.seq.lsI.toNat - 1) 0) hlens

/-- R164, R165. -/
theorem repeatZero_alike (n : Nat) (count : Nat → Nat) {s t : State} (h : SequenceAlike s t) :
    SameEnd (finish (readLsb n >>= fun x => putRun 0 (count x)) s) (finish (readLsb n >>= fun x => putRun 0 (count x)) t) :=
  Both.finish ((lockstep_readLsb n).andThen h.alike.outer fun _ _ _ hk => both_putRun _ (h.kept hk) fun _ => rfl)

/-- R166: the two tables depend on the sequence below TOTAL alone. -/
theorem buildBlockTables_alike {s t : State} (h : SequenceAlike s t) :
    SameEnd (finish buildBlockTables s) (finish buildBlockTables t) := by
  have hl : s.hdr.hlit = t.hdr.hlit := h.same.hlit
  have hd : s.hdr.hdist = t.hdr.hdist := h.same.hdist
  have hlens := h.same.lens
  have hf := h.alike.session.bfinal (.inr h.blk)
  have hll : s.seq.lenSeq.toList.take s.hdr.hlit.toNat = t.seq.lenSeq.toList.take t.hdr.hlit.toNat := by
    rw [← hl]
    simpa [session, List.take_take] using congrArg (List.take s.hdr.hlit.toNat) hlens
  have hdl : (s.seq.lenSeq.toList.drop s.hdr.hlit.toNat).take s.hdr.hdist.toNat =
      (t.seq.lenSeq.toList.drop t.hdr.hlit.toNat).take t.hdr.hdist.toNat := by
    rw [← hl, ← hd, List.take_drop, List.take_drop]
    exact congrArg (List.drop s.hdr.hlit.toNat) hlens
  obtain ⟨hok, htrie⟩ := buildTable_congr 15
    (h := { s.ll with lens := tabOfList 288 (s.seq.lenSeq.toList.take s.hdr.hlit.toNat) 0 })
    (h' := { t.ll with lens := tabOfList 288 (t.seq.lenSeq.toList.take t.hdr.hlit.toNat) 0 }) (by rw [hll]) s.scratch t.scratch
  have hdlens : tabOfList 32 ((s.seq.lenSeq.toList.drop s.hdr.hlit.toNat).take s.hdr.hdist.toNat) 0 =
      tabOfList 32 ((t.seq.lenSeq.toList.drop t.hdr.hlit.toNat).take t.hdr.hdist.toNat) (0 : BitVec 4) := by rw [hdl]
  refine Both.finish (.bind_ok rfl rfl (.bind_ok rfl rfl (.bind_ok rfl rfl ?_)))
  refine .ite (by exact Bool.eq_iff_iff.1 hok) (fun hr => .bind_ok rfl rfl (.bind_ok rfl rfl ?_)) fun _ => .raise h.alike.outer
  obtain ⟨hok', htrie'⟩ := buildTable_congr 15
    (h := { s.dist with lens := tabOfList 32 ((s.seq.lenSeq.toList.drop s.hdr.hlit.toNat).take s.hdr.hdist.toNat) 0 })
    (h' := { t.dist with lens := tabOfList 32 ((t.seq.lenSeq.toList.drop t.hdr.hlit.toNat).take t.hdr.hdist.toNat) 0 })
    hdlens _ _
  refine .ite (by exact Bool.eq_iff_iff.1 hok') (fun hr' => .of_ok rfl rfl ?_) fun _ => .raise h.alike.outer
  exact ⟨h.alike.outer, h.alike.session.blk, fun _ => hf, fun _ => rfl, fun _ hd => (nomatch hd), fun _ hd => (nomatch hd),
    fun _ _ => ⟨htrie hr, htrie' hr'⟩⟩

/-! ## Fetching an element -/

theorem Alike.nextFormat {s t : State} (h : Alike s t) : nextFormat s = nextFormat t := by
  have hb : s.blk = t.blk := h.session.blk
  have hl : InBlock (Machine.session s) → s.loopAt = t.loopAt := h.session.loopAt
  unfold Machine.nextFormat
  rw [← hb]
  cases hs : s.blk with
  | fixedBlock => rw [hl (.inl hs)]
  | dynamicBlock => rw [hl (.inr hs)]
  | _ => rfl

/-- Where an element of each stream format is read (R90, R150). -/
theorem position_of_nextFormat {s : State} {f : Format} (h : nextFormat s = some f) :
    (f = .blockHeader → s.blk = .readBlockHeader) ∧
    (f = .litlenSymbol → InBlock (session s) ∧ s.loopAt = .symbols) ∧
    (f = .distSymbol → InBlock (session s) ∧ s.loopAt = .distance) ∧
    (f = .clSymbol → s.blk = .dynamicBlock ∧ s.loopAt = .lengths) := by
  unfold nextFormat at h
  split at h <;> cases h <;> simp_all [InBlock, session]

theorem litlenTable_congr {s t : State} (h : Alike s t) (hf : nextFormat s = some .litlenSymbol) : litlenTable s = litlenTable t := by
  obtain ⟨-, hpos, -, -⟩ := position_of_nextFormat hf
  obtain ⟨hb, hl⟩ := hpos rfl
  have hne : (session s).loopAt ≠ .lengths := by rw [show (session s).loopAt = s.loopAt from rfl, hl]; decide
  have hblk : s.blk = t.blk := h.session.blk
  unfold litlenTable
  rw [← hblk]
  split
  · rfl
  · have htab : s.ll.trie = t.ll.trie := (h.session.tables (hb.resolve_left ‹_›) hne).1
    rw [htab]

theorem distTable_congr {s t : State} (h : Alike s t) (hf : nextFormat s = some .distSymbol) : distTable s = distTable t := by
  obtain ⟨-, -, hpos, -⟩ := position_of_nextFormat hf
  obtain ⟨hb, hl⟩ := hpos rfl
  have hne : (session s).loopAt ≠ .lengths := by rw [show (session s).loopAt = s.loopAt from rfl, hl]; decide
  have hblk : s.blk = t.blk := h.session.blk
  unfold distTable
  rw [← hblk]
  split
  · rfl
  · have htab : s.dist.trie = t.dist.trie := (h.session.tables (hb.resolve_left ‹_›) hne).2
    rw [htab]

/-- R151: a header writes BFINAL_L, which does not count before its block begins. -/
theorem both_readHeader {s t : State} (h : Alike s t) (hb : s.blk = .readBlockHeader) :
    Both readHeader readHeader s t fun _ s' t' => Alike s' t' ∧ s'.blk = .readBlockHeader := by
  have hb' : t.blk = .readBlockHeader := h.session.blk.symm.trans hb
  refine lockstep_readMsb_one.andThen h.outer fun f s1 t1 h1 => .bind_ok rfl rfl ?_
  have hbits : Lockstep (readMsb 1 >>= fun b0 => readMsb 1 >>= fun b1 => pure (f + 2 * (b0 + 2 * b1))) :=
    lockstep_readMsb_one.bind fun _ => lockstep_readMsb_one.bind fun _ => .pure _
  refine Both.mono (hbits _ _ (by exact h1.outer)) fun _ s2 t2 h2 => ?_
  have hs2 : s2.blk = .readBlockHeader := (congrArg Session.blk h2.left).trans ((congrArg Session.blk h1.left).trans hb)
  have ht2 : t2.blk = .readBlockHeader := (congrArg Session.blk h2.right).trans ((congrArg Session.blk h1.right).trans hb')
  exact ⟨.of_blk h2.outer (hs2.trans ht2.symm) (by simp [InBlock, session, hs2]), hs2⟩

theorem Kept.nextFormat {s t s' t' : State} (hk : Kept s t s' t') : Machine.nextFormat s' = Machine.nextFormat s := by
  have hb : s'.blk = s.blk := congrArg Session.blk hk.left
  have hl : s'.loopAt = s.loopAt := congrArg Session.loopAt hk.left
  rw [Machine.nextFormat, Machine.nextFormat, hb, hl]

/-- The code of an element is decoded with the same table in both runs. -/
theorem both_decodeSymbol {s t : State} (h : Alike s t) {tab tab' : List Slot} (ht : tab = tab') :
    Both (decodeSymbol tab) (decodeSymbol tab') s t fun _ s' t' => Alike s' t' ∧ nextFormat s' = nextFormat s := by
  subst ht
  exact (lockstep_decodeSymbol tab s t h.outer).mono fun _ _ _ hk => ⟨h.kept hk, hk.nextFormat⟩

theorem both_fetchValue {s t : State} (h : Alike s t) {f : Format} (hf : nextFormat s = some f) :
    Both (fetchValue f) (fetchValue f) s t fun _ s' t' => Alike s' t' ∧ nextFormat s' = nextFormat s := by
  obtain ⟨hheader, -, -, hcl⟩ := position_of_nextFormat hf
  refine .bind_ok rfl rfl ?_
  cases f with
  | blockHeader =>
    have hb := hheader rfl
    refine (both_readHeader h hb).mono fun _ s' _ ⟨h', hb'⟩ => ⟨h', ?_⟩
    rw [nextFormat, nextFormat, hb, hb']
  | litlenSymbol => exact both_decodeSymbol h (litlenTable_congr h hf)
  | distSymbol => exact both_decodeSymbol h (distTable_congr h hf)
  | clSymbol =>
    obtain ⟨hb, hl⟩ := hcl rfl
    have htrie : s.cl.trie = t.cl.trie := (h.session.sequence hb hl).clTrie
    exact both_decodeSymbol h (congrArg Vector.toList htrie)
  | hostCommand => exact absurd rfl (nextFormat_ne_host hf)

theorem both_fetch {s t : State} (h : Alike s t) :
    Both fetch fetch s t fun i s' t' => Alike s' t' ∧ nextFormat s' = some (encode i).format := by
  refine .bind_ok rfl rfl ?_
  rw [← h.nextFormat]
  cases hf : nextFormat s with
  | none => exact .of_error rfl rfl h.outer
  | some f =>
    refine .bind ((both_fetchValue h hf).mono fun v s' t' ⟨h', hn⟩ => ?_)
    cases hd : decode f v with
    | ok i => exact .of_ok rfl rfl ⟨h', by rw [hn, hf, decode_format hd]⟩
    | error r => exact .of_error rfl rfl h'.outer

/-! ## Steps and runs -/

/-- The meaning of an element, in the two states its code was read in. -/
theorem meaning_alike {f : Format} {m : State → Host.Outcome State Fault Refusal} (hm : Meaning f m) {s t : State} (h : Alike s t)
    (hf : nextFormat s = some f) : SameEnd (m s) (m t) := by
  obtain ⟨-, hlitlen, hdist, hcl⟩ := position_of_nextFormat hf
  have hseq (e : f = .clSymbol) : SequenceAlike s t := ⟨h, (hcl e).1, (hcl e).2⟩
  cases hm with
  | stored b => exact execStored_alike b h.outer
  | fixed b => exact execFixed_alike b h.outer
  | dynamic b => exact execDynamic_alike b h.outer
  | reserved b => exact execReserved_alike b h.outer
  | lit sym => exact execLit_alike sym h
  | eob => exact execEob_alike h (hlitlen rfl).1
  | length j =>
    obtain ⟨hb, hl⟩ := hlitlen rfl
    exact copyLength_alike j h hb (by rw [hl]; decide)
  | distance k => exact copyDistance_alike k h (hdist rfl).1 (hdist rfl).2
  | clLit c => exact execClLit_alike c (hseq rfl)
  | repPrev => exact execRepPrev_alike (hseq rfl)
  | repZero => exact repeatZero_alike 3 repZeroCount (hseq rfl)
  | repZeroLong => exact repeatZero_alike 7 repZeroLongCount (hseq rfl)
  | decode => exact absurd rfl (nextFormat_ne_host hf)

theorem runElement_alike {s t : State} (h : Alike s t) : SameEnd (runElement s) (runElement t) := by
  have hfetch := both_fetch h
  unfold Both at hfetch
  unfold runElement
  cases hs : fetch s <;> cases ht : fetch t <;> simp only [hs, ht] at hfetch
  · obtain ⟨rfl, h', hn⟩ := hfetch
    exact meaning_alike (exec_meaning _) h' hn
  · obtain ⟨rfl, ho⟩ := hfetch
    rename_i e _ _
    cases e with
    | raised e => exact alike_enterError ho e
    | fault f => exact rfl
    | refused r => exact rfl

theorem sequenceDone_iff (s : State) :
    sequenceDone s = true ↔ s.blk = .dynamicBlock ∧ s.loopAt = .lengths ∧ seqTotal s ≤ s.seq.lsI.toNat := by
  simp [sequenceDone, and_assoc]

theorem Alike.sequenceDone {s t : State} (h : Alike s t) : sequenceDone s = sequenceDone t := by
  have hbt : s.blk = t.blk := h.session.blk
  rw [Bool.eq_iff_iff, sequenceDone_iff, sequenceDone_iff, ← hbt]
  refine and_congr_right fun hb => ?_
  have hlt : s.loopAt = t.loopAt := h.session.loopAt (.inr hb)
  rw [← hlt]
  refine and_congr_right fun hl => ?_
  have hq : SequenceAlike s t := ⟨h, hb, hl⟩
  have hi : s.seq.lsI = t.seq.lsI := hq.same.lsI
  rw [hq.seqTotal, hi]

theorem engineStep_alike {s t : State} (h : Alike s t) : SameEnd (engineStep s) (engineStep t) := by
  unfold engineStep
  rw [← status_of_outer h.outer, ← h.sequenceDone]
  split
  · split
    · rename_i hd
      obtain ⟨hb, hl, -⟩ := (sequenceDone_iff s).1 hd
      exact buildBlockTables_alike ⟨h, hb, hl⟩
    · exact runElement_alike h
  · exact h

theorem Alike.visible {s t : State} (h : Alike s t) : visible s = visible t := by
  rw [Machine.visible, Machine.visible, status_of_outer h.outer, cur_of_outer h.outer, outPos_of_outer h.outer,
    outBuf_of_outer h.outer]

theorem runEngine_alike (n : Nat) {s t : State} (h : Alike s t) :
    mapNext visible (runEngine n s) = mapNext visible (runEngine n t) := by
  induction n generalizing s t with
  | zero => exact congrArg Host.Outcome.next h.visible
  | succ n ih =>
    have hstep := engineStep_alike h
    unfold runEngine
    rw [← status_of_outer h.outer]
    split
    · cases hs : engineStep s <;> cases ht : engineStep t <;> simp only [hs, ht, SameEnd] at hstep
      · exact ih hstep
      · rw [hstep]
      · rw [hstep]
    · exact congrArg Host.Outcome.next h.visible

/-- R203: START makes two states that are set up alike agree in everything that can reach the host. -/
theorem alike_startActions {s t : State} (h : sameSetup s t) : Alike (startActions s) (startActions t) := by
  obtain ⟨hcfg, hregs, hcur, hout, hin, hob⟩ := h
  exact .of_blk (by simp [outer, hcfg, hregs, hcur, hout, hin, hob]) rfl (by simp [InBlock, session])

/-- R200 to R203: DECODE from a state that is not BUSY. -/
theorem runDecode_of_idle {s : State} (h : s.status.busy = false) :
    runDecode s = if launchWidthOk s = false then .refused .launchWidth
      else if buffersOverlap s = true then .refused .buffersOverlap
      else runEngine (stepBound (startActions s)) (startActions s) := by
  have hrun : runDecode s = match execDecode s with
      | .next u => runEngine (stepBound u) u
      | .fault f => .fault f
      | .refused r => .refused r := rfl
  by_cases hw : launchWidthOk s = false
  · have hd : execDecode s = .refused .launchWidth := finish_of_refused (s' := s) (by simp [h, hw])
    rw [hrun, hd, if_pos hw]
  · by_cases ho : buffersOverlap s = true
    · have hd : execDecode s = .refused .buffersOverlap := finish_of_refused (s' := s) (by simp [h, hw, ho])
      rw [hrun, hd, if_neg hw, if_pos ho]
    · have hd : execDecode s = .next (startActions s) := finish_of_ok (by simp [h, hw, ho])
      rw [hrun, hd, if_neg hw, if_neg ho]

/-- Settles O52: START leaves the two runs alike, every step keeps them alike, and alike states show the host the same. -/
theorem sessionCarriesNothingOver : Obligations.SessionCarriesNothingOver := by
  intro s t h hs ht
  have halike := alike_startActions h
  obtain ⟨hcfg, hregs, hcur, hout, -, -⟩ := h
  have hw : launchWidthOk s = launchWidthOk t := by rw [launchWidthOk, launchWidthOk, hcfg, hregs, hcur, hout]
  have ho : buffersOverlap s = buffersOverlap t := by rw [buffersOverlap, buffersOverlap, hregs]
  have hn : stepBound (startActions s) = stepBound (startActions t) := by
    rw [stepBound, stepBound, startActions_regs, startActions_regs, hregs]
  rw [runDecode_of_idle hs, runDecode_of_idle ht, hw, ho, hn]
  split
  · rfl
  · split
    · rfl
    · exact runEngine_alike _ halike

end Sys2Proof.Machine
end

section
/-! SUPPORT. The elements that would bring OUT_POS or BYTE_OFF to 2^ADDR_W (spec R9), and engines side by side (spec R12, R235). -/

namespace Sys2Proof.Machine

/-! ## Overflow -/

theorem bind_of_ok {α β : Type} {m : M α} {f : α → M β} {s t : State} {a : α} (h : m s = .ok a t) : (m >>= f) s = f a t := by
  rw [bind_apply, h]

theorem bind_of_error {α β : Type} {m : M α} {f : α → M β} {s t : State} {e : Stop} (h : m s = .error e t) :
    (m >>= f) s = .error e t := by
  rw [bind_apply, h]

/-- R9, R192: a copy that would bring OUT_POS to 2^ADDR_W. -/
theorem copyBytes_fault (dist n : Nat) {s : State} (hn : n ≠ 0) (hw : 2 ^ s.cfg.addrW ≤ s.outPos + n) :
    ∃ t, copyBytes dist n s = .error (.fault .outPosOverflow) t := by
  induction n generalizing s with
  | zero => exact absurd rfl hn
  | succ n ih =>
    simp only [copyBytes, bind_apply, get_apply]
    by_cases h1 : s.outPos + 1 < 2 ^ s.cfg.addrW
    · rw [sinkWrite_ok _ h1]
      refine ih (by omega) ?_
      rw [afterSink_eq]
      show 2 ^ s.cfg.addrW ≤ s.outPos + 1 + n
      omega
    · rw [sinkWrite_fault _ (not_lt.1 h1)]
      exact ⟨_, rfl⟩

/-- R9, R156: stored data that IN holds and that would bring OUT_POS to 2^ADDR_W. -/
theorem storedBytes_fault (n : Nat) {s : State} (hi : s.cur.byteOff + n ≤ s.regs.inLen) (hl : s.regs.inLen < 2 ^ s.cfg.addrW)
    (hn : n ≠ 0) (hw : 2 ^ s.cfg.addrW ≤ s.outPos + n) : ∃ t, storedBytes n s = .error (.fault .outPosOverflow) t := by
  induction n generalizing s with
  | zero => exact absurd rfl hn
  | succ n ih =>
    simp only [storedBytes, bind_apply]
    rw [readByte_ok (by omega) hl]
    dsimp only
    by_cases h1 : s.outPos + 1 < 2 ^ s.cfg.addrW
    · rw [sinkWrite_ok _ (by exact h1), afterSink_eq]
      refine ih ?_ (by exact hl) (by omega) ?_
      · show s.cur.byteOff + 1 + n ≤ s.regs.inLen
        omega
      · show 2 ^ s.cfg.addrW ≤ s.outPos + 1 + n
        omega
    · rw [sinkWrite_fault _ (by exact not_lt.1 h1)]
      exact ⟨_, rfl⟩

/-- R9, R181: a literal that would bring OUT_POS to 2^ADDR_W. -/
theorem execLit_fault (b : BitVec 9) {s : State} (hw : 2 ^ s.cfg.addrW ≤ s.outPos + 1) : execLit b s = .fault .outPosOverflow :=
  finish_of_fault ((bind_of_ok rfl).trans (sinkWrite_fault _ (by exact hw)))

/-- R111: a row of the spec's table is the distance symbol of its place, with the extra bits and the base of the model's tables. -/
theorem distanceRows_meaning {k : Nat} {i : Instr} {extra base : Nat} (h : distanceRows[k]? = some (i, extra, base)) :
    k ≤ 29 ∧ exec i = finish (copyDistance k) ∧ extra = distExtra.getD k 0 ∧ base = distBase.getD k 0 := by
  have hk : k < 30 := (List.getElem?_eq_some_iff.1 h).1
  refine ⟨by omega, ?_⟩
  interval_cases k <;> (cases h; exact ⟨rfl, rfl, rfl⟩)

theorem mdistOf_lt {k x : Nat} (hk : k ≤ 29) (hx : x < 2 ^ distExtra.getD k 0) : mdistOf k x < 2 ^ 16 := by
  have hrow : ∀ k < 30, distBase.getD k 0 + 2 ^ distExtra.getD k 0 ≤ 2 ^ 16 := by decide
  have := hrow k (by omega)
  unfold mdistOf
  omega

/-- R187, R188: a copy within reach that would bring OUT_POS to 2^ADDR_W. -/
theorem copyDistance_fault {k : Nat} (hk : k ≤ 29) {s : State} (hr : readable s (distExtra.getD k 0))
    (hd : mdistOf k (fieldLsb s (bitPos s.cur) (distExtra.getD k 0)) ≤ s.outPos) (hm : s.syms.mlen ≠ 0)
    (hw : 2 ^ s.cfg.addrW ≤ s.outPos + s.syms.mlen.toNat) : finish (copyDistance k) s = .fault .outPosOverflow := by
  have hlt := mdistOf_lt hk (fieldLsb_lt s (bitPos s.cur) _)
  have hm' : s.syms.mlen.toNat ≠ 0 := fun e => hm (BitVec.eq_of_toNat_eq (by simpa using e))
  have hrun := copyDistance_eq hk hr
  dsimp only at hrun
  rw [BitVec.toNat_ofNat, Nat.mod_eq_of_lt hlt, if_neg (not_lt.2 hd)] at hrun
  simp only [copyBackReference, bind_apply, setCopyLeft_apply] at hrun
  obtain ⟨t, ht⟩ := copyBytes_fault (mdistOf k (fieldLsb s (bitPos s.cur) (distExtra.getD k 0))) s.syms.mlen.toNat
    (s := withCopyLeft s.syms.mlen.toNat { s with
      cur := advance s.cur (distExtra.getD k 0)
      syms := { s.syms with
        dsym := BitVec.ofNat 5 k
        mdist := BitVec.ofNat 16 (mdistOf k (fieldLsb s (bitPos s.cur) (distExtra.getD k 0))) } }) hm' hw
  rw [ht] at hrun
  exact finish_of_fault hrun

theorem le16_lt (s : State) (a : Nat) : le16 s a < 2 ^ 16 := by
  have h1 := (s.inBuf.read a).isLt
  have h2 := (s.inBuf.read (a + 1)).isLt
  unfold le16
  omega

/-- R155, R156: the body of a stored block whose data IN holds and would bring OUT_POS to 2^ADDR_W. -/
theorem storedBody_fault {s : State} (hc : s.hdr.lenR.toNat + s.hdr.nlenR.toNat = 0xFFFF) (hn : s.hdr.lenR.toNat ≠ 0)
    (hi : s.cur.byteOff + s.hdr.lenR.toNat ≤ s.regs.inLen) (hl : s.regs.inLen < 2 ^ s.cfg.addrW)
    (hw : 2 ^ s.cfg.addrW ≤ s.outPos + s.hdr.lenR.toNat) : ∃ t, storedBody s = .error (.fault .outPosOverflow) t := by
  simp only [storedBody, bind_apply, get_apply, setCopyLeft_apply, ite_apply_state, hc, ne_eq, not_true_eq_false, if_false]
  exact storedBytes_fault _ (s := withCopyLeft _ s) hi hl hn hw

/-- R154: a stored block whose data IN holds and would bring OUT_POS to 2^ADDR_W. -/
theorem execStored_outPos_fault (b : Bool) {s : State} (hl : s.regs.inLen < 2 ^ s.cfg.addrW)
    (hi : alignedOff s.cur + 4 + le16 s (alignedOff s.cur) ≤ s.regs.inLen)
    (hc : le16 s (alignedOff s.cur) + le16 s (alignedOff s.cur + 2) = 0xFFFF) (hn : le16 s (alignedOff s.cur) ≠ 0)
    (hw : 2 ^ s.cfg.addrW ≤ s.outPos + le16 s (alignedOff s.cur)) : execStored b s = .fault .outPosOverflow := by
  have hlen : (BitVec.ofNat 16 (le16 s (alignedOff s.cur))).toNat = le16 s (alignedOff s.cur) :=
    Nat.mod_eq_of_lt (le16_lt s _)
  have hnlen : (BitVec.ofNat 16 (le16 s (alignedOff s.cur + 2))).toNat = le16 s (alignedOff s.cur + 2) :=
    Nat.mod_eq_of_lt (le16_lt s _)
  obtain ⟨t, ht⟩ := storedBody_fault
    (s := { s with
      cur := { byteOff := alignedOff s.cur + 2 + 2, bitOff := 0#3 }
      blk := .storedBlock
      hdr := { s.hdr with
        bfinal := BitVec.ofNat 1 b.toNat
        btype := BitVec.ofNat 2 0
        lenR := BitVec.ofNat 16 (le16 s (alignedOff s.cur))
        nlenR := BitVec.ofNat 16 (le16 s (alignedOff s.cur + 2)) } })
    (by dsimp only; rw [hlen, hnlen]; exact hc) (by dsimp only; rwa [hlen]) (by dsimp only; rw [hlen]; omega) hl
    (by dsimp only; rwa [hlen])
  have ha : alignedOff s.cur < 2 ^ s.cfg.addrW := by omega
  have ha2 : alignedOff s.cur + 2 ≤ s.regs.inLen := by omega
  have ha4 : alignedOff s.cur + 2 + 2 ≤ s.regs.inLen := by omega
  refine finish_of_fault (s' := t) ?_
  refine (bind_of_ok rfl).trans <| (bind_of_ok rfl).trans <| (bind_of_ok (alignToByte_ok (by exact ha))).trans ?_
  refine (bind_of_ok (readLe16_ok (by exact ha2) (by exact hl))).trans <| (bind_of_ok rfl).trans ?_
  refine (bind_of_ok (readLe16_ok (by exact ha4) (by exact hl))).trans <| (bind_of_ok rfl).trans ?_
  exact bind_of_error ht

/-- R103, R154: the padding before a stored block that would bring BYTE_OFF to 2^ADDR_W. -/
theorem execStored_byteOff_fault (b : Bool) {s : State} (h0 : s.cur.bitOff ≠ 0) (hw : 2 ^ s.cfg.addrW ≤ s.cur.byteOff + 1) :
    execStored b s = .fault .byteOffOverflow := by
  have ha (u : State) (hu : u.cur = s.cur ∧ u.cfg = s.cfg) : alignToByte u = .error (.fault .byteOffOverflow) u := by
    have h0' : u.cur.bitOff ≠ 0#3 := by rw [hu.1]; exact h0
    refine (bind_of_ok rfl).trans ((ite_apply_state ..).trans ((if_pos h0').trans (advanceByte_fault ?_)))
    rwa [hu.1, hu.2]
  exact finish_of_fault ((bind_of_ok rfl).trans ((bind_of_ok rfl).trans (bind_of_error (ha _ ⟨rfl, rfl⟩))))

/-- Settles O38: each of the four elements reaches the byte or the padding that overflows, and a fault leaves no next state. -/
theorem overflowFaults : Obligations.OverflowFaults := by
  intro s hl
  refine ⟨fun b hw => execLit_fault b hw, fun k i extra base d hrow hr hd hle hm hw => ?_, fun b a ha hi hc hn hw => ?_,
    fun b h0 hw => execStored_byteOff_fault b h0 hw⟩
  · obtain ⟨hk, hexec, rfl, rfl⟩ := distanceRows_meaning hrow
    rw [hexec]
    subst hd
    exact copyDistance_fault hk hr hle hm hw
  · subst ha
    exact execStored_outPos_fault b hl hi hc hn hw

/-! ## Engines side by side -/

theorem overlap_of_inside {base len base' len' a : Nat} (h : inside base len a) (h' : inside base' len' a) :
    overlap base len base' len' = true := by
  unfold inside at h h'
  simp only [overlap, Bool.and_eq_true, decide_eq_true_eq]
  omega

/-- R235: a shared address of an OUT is a clash. -/
theorem enginesClash_of_inside {t u : State} {a : Nat}
    (h : (inside t.regs.outBase t.regs.outCap a ∧ (inside u.regs.outBase u.regs.outCap a ∨ inside u.regs.inBase u.regs.inLen a)) ∨
      (inside t.regs.inBase t.regs.inLen a ∧ inside u.regs.outBase u.regs.outCap a)) : enginesClash t u = true := by
  unfold enginesClash
  rcases h with ⟨ht, hu | hu⟩ | ⟨ht, hu⟩ <;> simp [overlap_of_inside ht hu]

theorem clashesWithOthers_of_clash {p : Platform} {k j : Nat} {t u : State} (hjk : j ≠ k) (hu : p.engines[j]? = some u)
    (h : enginesClash t u = true) : clashesWithOthers p k t = true := by
  unfold clashesWithOthers
  rw [List.any_eq_true]
  exact ⟨(u, j), List.mk_mem_zipIdx_iff_getElem?.2 hu, by simp [hjk, h]⟩

/-- R12: what a step of an engine that gives a next state does to the platform. -/
theorem stepOf_next {p p' : Platform} {k : Nat} (h : p.stepOf k = .next p') : ∃ s', p' = { engines := p.engines.set k s' } := by
  unfold Platform.stepOf at h
  split at h
  · cases h
  · split at h
    · split at h <;> cases h
      exact ⟨_, rfl⟩
    · cases h
    · cases h

/-- R235: a launch that clashes with another engine is refused. -/
theorem stepOf_refused {p : Platform} {k : Nat} {s t : State} (hs : p.engines[k]? = some s) (hb : s.status.busy = false)
    (hn : step s = .next t) (hb' : t.status.busy = true) (hc : clashesWithOthers p k t = true) :
    p.stepOf k = .refused .enginesOverlap := by
  unfold Platform.stepOf
  simp [hs, hn, hb, hb', hc]

/-- Settles O59: a step sets the one entry of the engine that moves, and an address in common is an overlap of the two buffers. -/
theorem enginesAreIndependent : Obligations.EnginesAreIndependent := by
  intro p k
  refine ⟨fun p' h => ?_, fun s t u j a hs hjk hu hb hn hb' ha => ?_⟩
  · obtain ⟨s', rfl⟩ := stepOf_next h
    exact ⟨List.length_set, fun j hj => List.getElem?_set_ne hj.symm⟩
  · exact stepOf_refused hs hb hn hb' (clashesWithOthers_of_clash hjk hu (enginesClash_of_inside ha))

end Sys2Proof.Machine
end

section
/-! SUPPORT. What the engine leaves unchanged and which way the cursor and OUT_POS go (spec R22 to R25, R50, R51, R107), and a DECODE as
a chain of engine steps (spec R150, R208). -/

namespace Sys2Proof.Machine

/-! ## The frame of the engine -/

/-- What the engine can have done to what lies outside its session registers, on its way from `s` to `t`: the host's own part is as it
was, the cursor and OUT_POS did not move back, and OUT changed only between the two OUT_POS and below OUT_CAP. -/
structure EngineFrame (s t : State) : Prop where
  cfg : t.cfg = s.cfg
  regs : t.regs = s.regs
  inBuf : t.inBuf = s.inBuf
  hostQ : t.hostQ = s.hostQ
  hostRd : t.hostRd = s.hostRd
  cursor : bitPos s.cur ≤ bitPos t.cur
  outPos : s.outPos ≤ t.outPos
  outBuf_wf : s.outBuf.wf = true → t.outBuf.wf = true
  outBuf_read : s.outBuf.wf = true → ∀ o, o < s.outPos ∨ t.outPos ≤ o ∨ s.regs.outCap ≤ o → t.outBuf.read o = s.outBuf.read o

/-- What keeps the host's part, OUT_POS and OUT, and does not move the cursor back, is within the frame. -/
theorem EngineFrame.of_sameOutput {s t : State} (hcfg : t.cfg = s.cfg) (hregs : t.regs = s.regs) (hin : t.inBuf = s.inBuf)
    (hq : t.hostQ = s.hostQ) (hrd : t.hostRd = s.hostRd) (hcur : bitPos s.cur ≤ bitPos t.cur) (hpos : t.outPos = s.outPos)
    (hbuf : t.outBuf = s.outBuf) : EngineFrame s t :=
  ⟨hcfg, hregs, hin, hq, hrd, hcur, hpos.ge, by rw [hbuf]; exact id, fun _ _ _ => by rw [hbuf]⟩

theorem EngineFrame.refl (s : State) : EngineFrame s s := .of_sameOutput rfl rfl rfl rfl rfl le_rfl rfl rfl

theorem EngineFrame.trans {s t u : State} (h : EngineFrame s t) (h' : EngineFrame t u) : EngineFrame s u where
  cfg := h'.cfg.trans h.cfg
  regs := h'.regs.trans h.regs
  inBuf := h'.inBuf.trans h.inBuf
  hostQ := h'.hostQ.trans h.hostQ
  hostRd := h'.hostRd.trans h.hostRd
  cursor := h.cursor.trans h'.cursor
  outPos := h.outPos.trans h'.outPos
  outBuf_wf w := h'.outBuf_wf (h.outBuf_wf w)
  outBuf_read w o ho := by
    have hst := h.outPos
    have htu := h'.outPos
    have hfirst : t.outBuf.read o = s.outBuf.read o := h.outBuf_read w o (by omega)
    have hsecond : u.outBuf.read o = t.outBuf.read o := h'.outBuf_read (h.outBuf_wf w) o (by rw [h.regs]; omega)
    exact hsecond.trans hfirst

theorem EngineFrame.afterSink (v : Byte) (s : State) : EngineFrame s (afterSink v s) := by
  have hpos : (Machine.afterSink v s).outPos = s.outPos + 1 := by rw [afterSink_eq]
  have hread : s.outBuf.wf = true → ∀ o, o < s.outPos ∨ (Machine.afterSink v s).outPos ≤ o ∨ s.regs.outCap ≤ o →
      (Machine.afterSink v s).outBuf.read o = s.outBuf.read o := by
    intro w o ho
    rw [afterSink_read v w, if_neg (by omega)]
  constructor
  case outPos => omega
  case outBuf_wf => exact afterSink_wf
  case outBuf_read => exact hread
  all_goals rw [afterSink_eq]

theorem Move.frame {s t : State} (h : Move s t) : EngineFrame s t := by
  cases h with
  | session h => exact .of_sameOutput h.cfg h.regs h.inBuf h.hostQ h.hostRd (by rw [h.cur]) h.outPos h.outBuf
  | bit h => exact .of_sameOutput rfl rfl rfl rfl rfl (by rw [bitPos_advance]; omega) rfl rfl
  | byte h hw =>
    have := s.cur.bitOff.isLt
    exact .of_sameOutput rfl rfl rfl rfl rfl (by simp only [bitPos]; omega) rfl rfl
  | put v hw => exact .afterSink v s

theorem Moves.frame {s t : State} (h : Moves s t) : EngineFrame s t :=
  Relation.ReflTransGen.trans_induction_on h EngineFrame.refl Move.frame fun _ _ => EngineFrame.trans

theorem EngineFrame.startActions (s : State) : EngineFrame s (startActions s) := .of_sameOutput rfl rfl rfl rfl rfl le_rfl rfl rfl

/-- Every next state of an instruction: DECODE's start actions, or a chain of moves. -/
theorem exec_next {i : Instr} {s t : State} (h : exec i s = .next t) : t = startActions s ∨ Moves s t := by
  by_cases hi : i = .decode
  · subst hi
    exact .inl (execDecode_next h).1
  · exact .inr (moves_exec hi h)

theorem exec_frame {i : Instr} {s t : State} (h : exec i s = .next t) : EngineFrame s t := by
  obtain rfl | hm := exec_next h
  · exact .startActions s
  · exact hm.frame

theorem engineStep_frame {s t : State} (h : engineStep s = .next t) : EngineFrame s t := (moves_engineStep h).frame

/-- Settles O39: each move of an instruction is within the frame, and so are the start actions of DECODE. -/
theorem instructionFrame : Obligations.InstructionFrame := by
  intro i s t h
  have hf := exec_frame h
  exact ⟨hf.cfg, hf.regs, hf.inBuf, hf.hostQ, hf.hostRd, hf.outPos, hf.outBuf_read⟩

/-! ## How far the cursor goes -/

/-- A byte boundary at or past IN_LEN that the cursor has not passed stays one: a bit is read below IN_LEN only, and a move to the next
byte starts below IN_LEN or inside a byte. -/
theorem Move.bitPos_le {s t : State} (h : Move s t) {n : Nat} (hn : s.regs.inLen ≤ n) (hp : bitPos s.cur ≤ 8 * n) :
    bitPos t.cur ≤ 8 * n := by
  cases h with
  | session h => rwa [h.cur]
  | bit h =>
    have := (byteOff_lt_iff s.cur s.regs.inLen).1 h
    rw [bitPos_advance]
    omega
  | byte h hw =>
    have hlt : s.cur.byteOff < n := by
      rcases h with h | h
      · omega
      · have : s.cur.bitOff.toNat ≠ 0 := fun h0 => h (BitVec.eq_of_toNat_eq h0)
        unfold bitPos at hp
        omega
    simp only [bitPos, BitVec.toNat_ofNat]
    omega
  | put v hw => rwa [afterSink_eq]

theorem Moves.bitPos_le {s t : State} (h : Moves s t) {n : Nat} (hn : s.regs.inLen ≤ n) (hp : bitPos s.cur ≤ 8 * n) :
    bitPos t.cur ≤ 8 * n := by
  induction h with
  | refl => exact hp
  | tail hm hmove ih => exact hmove.bitPos_le (by rwa [(Moves.frame hm).regs]) ih

theorem byteOff_le_of_bitPos_le {c : Cursor} {n : Nat} (h : bitPos c ≤ 8 * n) : c.byteOff ≤ n := by
  unfold bitPos at h
  omega

/-- R107: the moves of one instruction pass IN_LEN, if at all, by finishing the byte they started in. -/
theorem Moves.byteOff_le {s t : State} (h : Moves s t) : t.cur.byteOff ≤ max s.regs.inLen (s.cur.byteOff + 1) := by
  have := s.cur.bitOff.isLt
  exact byteOff_le_of_bitPos_le (h.bitPos_le (le_max_left _ _) (by unfold bitPos; omega))

/-- R225: at or past the end of IN the engine does not move the cursor. -/
theorem engineStep_cur_of_end {s t : State} (hl : s.regs.inLen ≤ s.cur.byteOff) (h : engineStep s = .next t) : t.cur = s.cur := by
  unfold engineStep at h
  split at h
  · split at h
    · exact buildBlockTables_cur h
    · obtain ⟨e, s', hf, hc⟩ := fetch_end hl
      unfold runElement at h
      rw [hf] at h
      cases e with
      | raised e => cases h; exact hc
      | fault f => cases h
      | refused r => cases h
  · cases h
    rfl

/-- R107: a step that starts inside IN stays at or below IN_LEN, and one that starts past it stays where it is. -/
theorem engineStep_byteOff_le {s t : State} (h : engineStep s = .next t) : t.cur.byteOff ≤ max s.regs.inLen s.cur.byteOff := by
  rcases Nat.lt_or_ge s.cur.byteOff s.regs.inLen with hl | hl
  · have hp := (byteOff_lt_iff _ _).1 hl
    exact le_max_of_le_left (byteOff_le_of_bitPos_le ((moves_engineStep h).bitPos_le le_rfl hp.le))
  · rw [engineStep_cur_of_end hl h]
    exact le_max_right _ _

/-! ## A DECODE as a chain of engine steps -/

/-- A step that the engine takes while BUSY. -/
def BusyStep (s t : State) : Prop := s.status.busy = true ∧ engineStep s = .next t

/-- R150: the steps of a run. -/
theorem runEngine_next {n : Nat} {s t : State} (h : runEngine n s = .next t) : Relation.ReflTransGen BusyStep s t := by
  induction n generalizing s with
  | zero => cases h; exact .refl
  | succ n ih =>
    unfold runEngine at h
    split at h
    · rename_i hb
      split at h
      · exact .head ⟨hb, ‹_›⟩ (ih h)
      · cases h
      · cases h
    · cases h
      exact .refl

/-- R200, R208: a DECODE is the start actions and the engine steps that follow. -/
theorem runDecode_next {s t : State} (h : runDecode s = .next t) : Relation.ReflTransGen BusyStep (startActions s) t := by
  unfold runDecode at h
  split at h
  · rename_i s' hd
    obtain ⟨rfl, -⟩ := execDecode_next hd
    exact runEngine_next h
  · cases h
  · cases h

theorem busySteps_frame {s t : State} (h : Relation.ReflTransGen BusyStep s t) : EngineFrame s t :=
  Relation.ReflTransGen.trans_induction_on h EngineFrame.refl (fun hstep => engineStep_frame hstep.2) fun _ _ => EngineFrame.trans

theorem runDecode_frame {s t : State} (h : runDecode s = .next t) : EngineFrame s t :=
  (EngineFrame.startActions s).trans (busySteps_frame (runDecode_next h))

theorem busySteps_byteOff_le {s t : State} (h : Relation.ReflTransGen BusyStep s t) :
    t.cur.byteOff ≤ max s.regs.inLen s.cur.byteOff := by
  induction h with
  | refl => exact le_max_right _ _
  | tail hsteps hstep ih =>
    have hb := engineStep_byteOff_le hstep.2
    rw [(busySteps_frame hsteps).regs] at hb
    exact hb.trans (max_le (le_max_left _ _) ih)

/-- Settles O40: a step that starts inside IN ends at or below IN_LEN, one that starts past it does not move, and a DECODE is a chain of
steps; one instruction's moves end with the byte they started in or inside IN. -/
theorem cursorNeverMovesBack : Obligations.CursorNeverMovesBack := by
  refine ⟨fun s t h => ?_, fun i s t h => ⟨(exec_frame h).cursor, ?_⟩⟩
  · rcases h with h | h
    · exact ⟨(engineStep_frame h).cursor, engineStep_byteOff_le h⟩
    · exact ⟨(runDecode_frame h).cursor, busySteps_byteOff_le (s := startActions s) (runDecode_next h)⟩
  · obtain rfl | hm := exec_next h
    · exact le_max_of_le_right (Nat.le_succ _)
    · exact hm.byteOff_le

end Sys2Proof.Machine
end

section
/-! SUPPORT. The host's accesses while no DECODE runs: the registers (spec R21, R26, R27) and the buffers (spec R44, R206). -/

namespace Sys2Proof.Machine

theorem step_access {s : State} {a : HostAccess} {q : List HostOp} (h : s.hostQ = .access a :: q) :
    step s = hostAccess a { s with hostQ := q } := by
  unfold step platformStep
  rw [h]

/-! ## Registers -/

/-- What the host does next and what it last read are no part of a register. -/
theorem regValue_host (s : State) (q : List HostOp) (w : Option Data) (r : HostReg) :
    regValue { s with hostQ := q, hostRd := w } r = regValue s r := by
  cases r <;> rfl

@[simp] theorem writeReg_status (r : HostReg) (v : Data) (s : State) : (writeReg r v s).status = s.status := by cases r <;> rfl

@[simp] theorem writeReg_hostQ (r : HostReg) (v : Data) (s : State) : (writeReg r v s).hostQ = s.hostQ := by cases r <;> rfl

@[simp] theorem writeReg_inBuf (r : HostReg) (v : Data) (s : State) : (writeReg r v s).inBuf = s.inBuf := by cases r <;> rfl

@[simp] theorem writeReg_outBuf (r : HostReg) (v : Data) (s : State) : (writeReg r v s).outBuf = s.outBuf := by cases r <;> rfl

/-- R21: a register that is not read-only reads back the low bits it keeps; CTRL keeps none (R26). -/
theorem regValue_writeReg_same {r : HostReg} (hr : r ≠ .status) (v : Data) (s : State) :
    regValue (writeReg r v s) r = BitVec.ofNat 32 (v.toNat % 2 ^ regWidth s r) := by
  cases r with
  | ctrl => simp [regValue, regWidth, Nat.mod_one]
  | status => exact absurd rfl hr
  | bitOff => exact BitVec.eq_of_toNat_eq (by simp [regValue, writeReg, regWidth])
  | inLen | outCap | byteOff | outPos | inBase | outBase => rfl

/-- R21: a register write reaches no other register. -/
theorem regValue_writeReg_of_ne {r r' : HostReg} (h : r' ≠ r) (v : Data) (s : State) :
    regValue (writeReg r v s) r' = regValue s r' := by
  cases r with
  | ctrl | status => rfl
  | inLen | outCap | byteOff | bitOff | outPos | inBase | outBase => cases r' <;> simp_all [regValue, writeReg]

/-- R26: a write to CTRL with bit 0 = 0 has no effect. -/
theorem writeCtrl_of_bit_zero {v : Data} (hv : v.getLsbD 0 = false) {s : State} (hb : s.status.busy = false) :
    writeCtrl v s = .next s := by
  have h0 : v.toNat % 2 = 0 := by simpa [BitVec.getLsbD] using hv
  unfold writeCtrl
  rw [h0]
  simp [decode, hb]

/-- R21, R26: with no DECODE running, a register write that is not START is writeReg. -/
theorem hostAccess_write {r : HostReg} {v : Data} {s : State} (hb : s.status.busy = false) (hv : r = .ctrl → v.getLsbD 0 = false) :
    hostAccess (.write r v) s = .next (writeReg r v s) := by
  cases r with
  | ctrl => exact writeCtrl_of_bit_zero (hv rfl) hb
  | status | inLen | outCap | byteOff | bitOff | outPos | inBase | outBase => simp [hostAccess, hb]

/-- R21: with no DECODE running, a register read gives the register and changes nothing but the data read. -/
theorem hostAccess_read {r : HostReg} {s : State} (hb : s.status.busy = false) :
    hostAccess (.read r) s = .next { s with hostRd := some (regValue s r) } := by
  cases r <;> simp [hostAccess, hb, regValue]

theorem step_write {s : State} {r : HostReg} {v : Data} {q : List HostOp} (hb : s.status.busy = false)
    (hv : r = .ctrl → v.getLsbD 0 = false) (hq : s.hostQ = .access (.write r v) :: q) :
    step s = .next (writeReg r v { s with hostQ := q }) :=
  (step_access hq).trans (hostAccess_write hb hv)

theorem step_read {s : State} {r : HostReg} {q : List HostOp} (hb : s.status.busy = false) (hq : s.hostQ = .access (.read r) :: q) :
    step s = .next { s with hostQ := q, hostRd := some (regValue s r) } := by
  rw [step_access hq, hostAccess_read (s := { s with hostQ := q }) hb, regValue_host]

/-- Settles O57: the write is writeReg and the read regValue, whatever the register, and the two laws of writeReg say the rest. -/
theorem registersReadBack : Obligations.RegistersReadBack := by
  intro s r v q hb hq hv
  have hread := step_read (q := q) (s := writeReg r v { s with hostQ := .access (.read r) :: q }) (r := r)
    (by rw [writeReg_status]; exact hb) (writeReg_hostQ _ _ _)
  refine ⟨_, _, step_write hb hv hq, hread, rfl, writeReg_inBuf _ _ _, writeReg_outBuf _ _ _, ?_, ?_, ?_⟩
  · rintro rfl
    rfl
  · intro hr
    have hwidth : regWidth { s with hostQ := .access (.read r) :: q } r = regWidth s r := by cases r <;> rfl
    rw [← hwidth, ← regValue_writeReg_same hr]
  · intro r' hr
    rw [regValue_host, regValue_writeReg_of_ne hr]
    exact regValue_host s _ s.hostRd r'

/-! ## Buffers -/

/-- Settles O60: an access with no DECODE running is one write or one read of the buffer. -/
theorem hostReachesTheBuffers : Obligations.HostReachesTheBuffers := by
  intro s o v q hb
  refine ⟨fun hq w => ?_, fun hq w => ?_, fun hq => ?_, fun hq => ?_⟩
  · refine ⟨{ s with hostQ := q, inBuf := s.inBuf.write o v }, ?_, rfl, Memory.write_wf _ _ w, ?_, fun a ha => ?_⟩
    · simp [step_access hq, hostAccess, hb]
    · simp [Memory.read_write w]
    · simp [Memory.read_write w, ha]
  · refine ⟨{ s with hostQ := q, outBuf := s.outBuf.write o v }, ?_, rfl, Memory.write_wf _ _ w, ?_, fun a ha => ?_⟩
    · simp [step_access hq, hostAccess, hb]
    · simp [Memory.read_write w]
    · simp [Memory.read_write w, ha]
  · exact ⟨(s.inBuf.read o).setWidth 32, by simp [step_access hq, hostAccess, hb], BitVec.toNat_setWidth_of_le (by decide)⟩
  · exact ⟨(s.outBuf.read o).setWidth 32, by simp [step_access hq, hostAccess, hb], BitVec.toNat_setWidth_of_le (by decide)⟩

end Sys2Proof.Machine
end

section
/-! SUPPORT. Two runs from states that differ in what no element reads: IN from IN_LEN on, OUT from OUT_CAP on, and the two bases
(spec R10, R50, R69, R194). -/

namespace Sys2Proof.Machine

/-! ## States that differ in the buffers and the bases -/

/-- The two buffers and their bases. -/
structure Buffers where
  inBuf : Memory
  inBase : Nat
  outBuf : Memory
  outBase : Nat

/-- The buffers of a state. -/
def buffersOf (s : State) : Buffers :=
  { inBuf := s.inBuf, inBase := s.regs.inBase, outBuf := s.outBuf, outBase := s.regs.outBase }

/-- The state with other buffers at other bases. -/
def withBuffers (b : Buffers) (s : State) : State :=
  { s with inBuf := b.inBuf, outBuf := b.outBuf, regs := { s.regs with inBase := b.inBase, outBase := b.outBase } }

/-- How OUT of one run may relate to OUT of the other, for a given OUT_CAP: a copy reads the same below OUT_CAP (R69), and a byte
stored in both keeps them related. -/
structure OutRelation where
  rel : Nat → Memory → Memory → Prop
  read {cap : Nat} {m n : Memory} : rel cap m n → ∀ a < cap, n.read a = m.read a
  write {cap : Nat} {m n : Memory} : rel cap m n → ∀ a v, rel cap (m.write a v) (n.write a v)

/-- OUT is the same in both runs. -/
def sameOut : OutRelation := ⟨fun _ m n => m = n, fun h _ _ => h ▸ rfl, fun h _ _ => h ▸ rfl⟩

/-- OUT is canonical in both runs, and the same below OUT_CAP. -/
def sameBelowCap : OutRelation where
  rel cap m n := m.wf = true ∧ n.wf = true ∧ ∀ a < cap, n.read a = m.read a
  read h := h.2.2
  write := fun ⟨hm, hn, h⟩ a v => ⟨Memory.write_wf a v hm, Memory.write_wf a v hn, fun c hc => by
    rw [Memory.read_write hm, Memory.read_write hn, h c hc]⟩

/-- The two states differ in buffers and bases only: IN is the same below IN_LEN (R50), and the two OUT are related. -/
inductive Twin (R : OutRelation) (s : State) : State → Prop where
  | mk (b : Buffers) (input : ∀ a < s.regs.inLen, b.inBuf.read a = s.inBuf.read a) (output : R.rel s.regs.outCap s.outBuf b.outBuf) :
      Twin R s (withBuffers b s)

/-- The update neither looks at the buffers or their bases nor changes them or a register the host writes. -/
structure Blind (f : State → State) : Prop where
  commutes : ∀ b s, f (withBuffers b s) = withBuffers b (f s)
  regs : ∀ s, (f s).regs = s.regs

section
variable {R : OutRelation} {s t : State}

theorem Twin.eq (h : Twin R s t) : t = withBuffers (buffersOf t) s := by cases h; rfl

theorem Twin.output (h : Twin R s t) : R.rel s.regs.outCap s.outBuf t.outBuf := by cases h; assumption

theorem Twin.update {f : State → State} (hf : Blind f) (h : Twin R s t) : Twin R (f s) (f t) := by
  obtain ⟨b, hin, hout⟩ := h
  have hs : f s = withBuffers (buffersOf s) (f s) := hf.commutes (buffersOf s) s
  have hinBuf : (f s).inBuf = s.inBuf := (congrArg State.inBuf hs :)
  have houtBuf : (f s).outBuf = s.outBuf := (congrArg State.outBuf hs :)
  rw [hf.commutes]
  exact ⟨b, by rwa [hf.regs, hinBuf], by rwa [hf.regs, houtBuf]⟩

theorem Twin.enterError (h : Twin R s t) (e : ErrKind) : Twin R (enterError e s) (enterError e t) :=
  h.update ⟨fun _ _ => rfl, fun _ => rfl⟩

theorem Twin.withCur (h : Twin R s t) (c : Cursor) : Twin R { s with cur := c } { t with cur := c } :=
  h.update (f := fun s => { s with cur := c }) ⟨fun _ _ => rfl, fun _ => rfl⟩

/-- R50: below IN_LEN the byte at the cursor is the same in both runs. -/
theorem Twin.readInput (h : Twin R s t) (hl : ¬ s.regs.inLen ≤ s.cur.byteOff) :
    t.inBuf.read t.cur.byteOff = s.inBuf.read s.cur.byteOff := by
  obtain ⟨b, hin, -⟩ := h
  exact hin _ (not_le.1 hl)

/-- R190: one byte to the sink in both runs. -/
theorem Twin.afterSink (h : Twin R s t) (v : Byte) : Twin R (afterSink v s) (afterSink v t) := by
  obtain ⟨b, hin, hout⟩ := h
  unfold Machine.afterSink
  by_cases hc : s.outPos < s.regs.outCap
  · rw [if_pos hc, if_pos (by exact hc)]
    exact ⟨{ b with outBuf := b.outBuf.write s.outPos v }, hin, R.write hout _ _⟩
  · rw [if_neg hc, if_neg (by exact hc)]
    exact ⟨b, hin, hout⟩

/-- R69: below OUT_CAP a copy reads the same byte in both runs; past it the byte does not come from OUT. -/
theorem Twin.copySource (h : Twin R s t) (a : Nat) : copySource s a = copySource t a := by
  obtain ⟨b, -, hout⟩ := h
  unfold Machine.copySource
  by_cases ha : a < s.regs.outCap
  · rw [if_pos ha, if_pos (by exact ha)]
    exact (R.read hout a ha).symm
  · rw [if_neg ha, if_neg (by exact ha)]
    rfl

end

/-! ## Both runs of an operation -/

/-- The two runs end alike: with the same value or stopped for the same reason, in states that are twins again. -/
def Twins (R : OutRelation) {α : Type} (m n : M α) (s t : State) : Prop :=
  match m s, n t with
  | .ok a s', .ok b t' => a = b ∧ Twin R s' t'
  | .error e s', .error e' t' => e = e' ∧ Twin R s' t'
  | _, _ => False

/-- The operation depends on nothing that twins may differ in. -/
def Oblivious (R : OutRelation) {α : Type} (m : M α) : Prop := ∀ s t, Twin R s t → Twins R m m s t

section
variable {R : OutRelation} {α β : Type} {m n : M α} {s t : State}

theorem Twins.of_ok {a : α} {s' t' : State} (hm : m s = .ok a s') (hn : n t = .ok a t') (h : Twin R s' t') : Twins R m n s t := by
  unfold Twins; rw [hm, hn]; exact ⟨rfl, h⟩

theorem Twins.of_error {e : Stop} {s' t' : State} (hm : m s = .error e s') (hn : n t = .error e t') (h : Twin R s' t') :
    Twins R m n s t := by
  unfold Twins; rw [hm, hn]; exact ⟨rfl, h⟩

theorem Twins.bind {f g : α → M β} (h : Twins R m n s t) (hfg : ∀ a s' t', Twin R s' t' → Twins R (f a) (g a) s' t') :
    Twins R (m >>= f) (n >>= g) s t := by
  unfold Twins at h ⊢
  rw [bind_apply, bind_apply]
  cases hm : m s <;> cases hn : n t <;> simp only [hm, hn] at h ⊢
  · obtain ⟨rfl, h⟩ := h
    exact hfg _ _ _ h
  · exact h

theorem Twins.of_get {f g : State → M α} (h : Twins R (f s) (g t) s t) : Twins R (get >>= f) (get >>= g) s t := h

theorem Twins.ite {p q : Prop} [Decidable p] [Decidable q] {m' n' : M α} (hpq : p ↔ q) (hm : p → Twins R m n s t)
    (hn : ¬p → Twins R m' n' s t) : Twins R (if p then m else m') (if q then n else n') s t := by
  by_cases hp : p
  · rw [if_pos hp, if_pos (hpq.1 hp)]; exact hm hp
  · rw [if_neg hp, if_neg (fun hq => hp (hpq.2 hq))]; exact hn hp

theorem Oblivious.bind {f : α → M β} (hm : Oblivious R m) (hf : ∀ a, Oblivious R (f a)) : Oblivious R (m >>= f) :=
  fun s t h => (hm s t h).bind hf

theorem Oblivious.pure (a : α) : Oblivious R (pure a : M α) := fun _ _ h => .of_ok rfl rfl h

theorem Oblivious.throw (e : Stop) : Oblivious R (throw e : M α) := fun _ _ h => .of_error rfl rfl h

theorem Oblivious.raise (e : ErrKind) : Oblivious R (raise e : M α) := .throw _

theorem Oblivious.modify {f : State → State} (hf : Blind f := by exact ⟨fun _ _ => rfl, fun _ => rfl⟩) :
    Oblivious R (modify f : M PUnit) := fun _ _ h => .of_ok rfl rfl (h.update hf)

theorem Oblivious.ite {p : Prop} [Decidable p] (hm : Oblivious R m) (hn : Oblivious R n) : Oblivious R (if p then m else n) :=
  fun s t h => .ite Iff.rfl (fun _ => hm s t h) fun _ => hn s t h

/-- Reading the state for what twins share; `hf` says that the rest of the operation looks at nothing else. -/
theorem Oblivious.ofGet {f : State → M α} (h : ∀ s, Oblivious R (f s))
    (hf : ∀ b s, f (withBuffers b s) = f s := by exact fun _ _ => rfl) : Oblivious R (get >>= f) := by
  rintro s _ ⟨b, hin, hout⟩
  refine .of_get ?_
  rw [hf]
  exact h s _ _ ⟨b, hin, hout⟩

/-- Reading the state and writing it back updated; what follows depends on the state that was read, but on nothing that twins may
differ in. -/
theorem Oblivious.getSet {f : State → State} {k : State → M α} (h : ∀ s, Oblivious R (k s))
    (hf : Blind f := by exact ⟨fun _ _ => rfl, fun _ => rfl⟩) (hk : ∀ b s, k (withBuffers b s) = k s := by exact fun _ _ => rfl) :
    Oblivious R (get >>= fun s => set (f s) >>= fun _ => k s) := by
  intro s t hst
  refine .of_get (.bind (m := set (f s)) (n := set (f t)) (.of_ok rfl rfl (hst.update hf)) fun _ s' t' h' => ?_)
  obtain ⟨b, hin, hout⟩ := hst
  rw [hk]
  exact h s s' t' h'

end

section
variable {R : OutRelation}

/-! ## The shared operations -/

theorem oblivious_advanceByte : Oblivious R advanceByte := by
  intro s t h
  obtain ⟨b, -, -⟩ := id h
  by_cases hw : s.cur.byteOff + 1 < 2 ^ s.cfg.addrW
  · exact .of_ok (advanceByte_ok hw) (advanceByte_ok (s := withBuffers b s) hw) (h.withCur _)
  · exact .of_error (advanceByte_fault (not_lt.1 hw)) (advanceByte_fault (s := withBuffers b s) (not_lt.1 hw)) h

theorem oblivious_readBit : Oblivious R readBit := by
  intro s t h
  obtain ⟨b, -, -⟩ := id h
  refine .of_get (.ite Iff.rfl (fun _ => Oblivious.raise _ _ _ h) fun hl => ?_)
  rw [h.readInput hl]
  refine .ite Iff.rfl (fun _ => oblivious_advanceByte.bind (fun _ => .pure _) _ _ h) fun _ => ?_
  exact .bind (.of_ok rfl rfl (h.withCur _)) fun _ => Oblivious.pure _

theorem oblivious_readLsb (n : Nat) : Oblivious R (readLsb n) := by
  induction n with
  | zero => exact .pure 0
  | succ n ih => exact .bind oblivious_readBit fun _ => .bind ih fun _ => .pure _

theorem oblivious_readMsb_one : Oblivious R (readMsb 1) := .bind oblivious_readBit fun _ => .pure _

theorem oblivious_alignToByte : Oblivious R alignToByte := .ofGet fun _ => .ite oblivious_advanceByte (.pure ())

theorem oblivious_readByte : Oblivious R readByte := by
  intro s t h
  obtain ⟨b, -, -⟩ := id h
  refine .of_get (.ite Iff.rfl (fun _ => Oblivious.raise _ _ _ h) fun hl => ?_)
  rw [h.readInput hl]
  exact oblivious_advanceByte.bind (fun _ => .pure _) _ _ h

theorem oblivious_readLe16 : Oblivious R readLe16 := .bind oblivious_readByte fun _ => .bind oblivious_readByte fun _ => .pure _

theorem oblivious_sinkWrite (v : Byte) : Oblivious R (sinkWrite v) := by
  intro s t h
  obtain ⟨b, -, -⟩ := id h
  by_cases hw : s.outPos + 1 < 2 ^ s.cfg.addrW
  · exact .of_ok (sinkWrite_ok v hw) (sinkWrite_ok (s := withBuffers b s) v hw) (h.afterSink v)
  · exact .of_error (sinkWrite_fault v (not_lt.1 hw)) (sinkWrite_fault (s := withBuffers b s) v (not_lt.1 hw)) h

theorem oblivious_setCopyLeft (n : Nat) : Oblivious R (setCopyLeft n) := .modify

theorem oblivious_copyBytes (dist n : Nat) : Oblivious R (copyBytes dist n) := by
  induction n with
  | zero => exact .pure ()
  | succ n ih =>
    intro s t h
    obtain ⟨b, -, -⟩ := id h
    refine .of_get ?_
    rw [← h.copySource]
    exact (oblivious_sinkWrite _).bind (fun _ => (oblivious_setCopyLeft n).bind fun _ => ih) _ _ h

theorem oblivious_copyBackReference (len dist : Nat) : Oblivious R (copyBackReference len dist) :=
  .bind (oblivious_setCopyLeft len) fun _ => oblivious_copyBytes dist len

theorem oblivious_storedBytes (n : Nat) : Oblivious R (storedBytes n) := by
  induction n with
  | zero => exact .pure ()
  | succ n ih =>
    exact .bind oblivious_readByte fun b => .bind (oblivious_sinkWrite b) fun _ => .bind (oblivious_setCopyLeft n) fun _ => ih

theorem oblivious_walkTrie (tab : List Slot) (fuel k : Nat) : Oblivious R (walkTrie tab fuel k) := by
  induction fuel generalizing k with
  | zero => exact .throw _
  | succ fuel ih =>
    refine .bind .modify fun _ => .bind oblivious_readMsb_one fun bit => ?_
    split
    · exact .raise _
    · exact .pure _
    · exact ih _

theorem oblivious_decodeSymbol (tab : List Slot) : Oblivious R (decodeSymbol tab) :=
  .ofGet fun _ => oblivious_walkTrie tab _ 0

theorem oblivious_latchSym (sym : Nat) : Oblivious R (latchSym sym) := .modify

theorem oblivious_latchHeader (b : Bool) (t : Nat) : Oblivious R (latchHeader b t) := .modify

/-- R167: the end of a block looks at BFINAL_L only. -/
theorem oblivious_endOfBlock : Oblivious R endOfBlock := by
  refine .modify ⟨fun b s => ?_, fun s => ?_⟩
  · by_cases hf : s.hdr.bfinal = 1#1
    · rw [if_pos hf, if_pos (by exact hf)]; rfl
    · rw [if_neg hf, if_neg (by exact hf)]; rfl
  · split <;> rfl

/-! ## The parts of an element -/

theorem oblivious_storedBody : Oblivious R storedBody :=
  .ofGet fun _ => .ite (.raise _) (.bind (oblivious_setCopyLeft _) fun _ => oblivious_storedBytes _)

theorem oblivious_copyLength (j : Nat) : Oblivious R (copyLength j) :=
  .bind (oblivious_latchSym _) fun _ => .ite (.raise _) <| .bind (oblivious_readLsb _) fun _ => .modify

theorem oblivious_copyDistance (k : Nat) : Oblivious R (copyDistance k) :=
  .bind .modify fun _ => .ite (.raise _) <|
    .bind (oblivious_readLsb _) fun _ => .bind .modify fun _ =>
      .ofGet fun _ => .ite (.raise _) <|
        .bind (oblivious_copyBackReference _ _) fun _ => .modify

theorem oblivious_readHeader : Oblivious R readHeader :=
  .bind oblivious_readMsb_one fun _ => .bind .modify fun _ =>
    .bind oblivious_readMsb_one fun _ => .bind oblivious_readMsb_one fun _ => .pure _

theorem oblivious_putLength (c : BitVec 4) : Oblivious R (putLength c) := .modify

theorem oblivious_putLengths (c : BitVec 4) (r : Nat) : Oblivious R (putLengths c r) := by
  induction r with
  | zero => exact .pure ()
  | succ r ih => exact .bind (oblivious_putLength c) fun _ => ih

theorem oblivious_putRun (c : BitVec 4) (r : Nat) : Oblivious R (putRun c r) :=
  .ofGet fun _ => .ite (.raise _) (oblivious_putLengths c r)

theorem oblivious_readClLengths (order : List Nat) (n : Nat) : Oblivious R (readClLengths order n) := by
  induction order generalizing n with
  | nil => exact .pure ()
  | cons p order ih => exact .bind (oblivious_readLsb _) fun _ => .bind .modify fun _ => ih _

theorem oblivious_buildClTable : Oblivious R buildClTable := by
  dsimp only [buildClTable]
  exact .getSet fun _ => .ite (.pure ()) (.raise _)

theorem oblivious_startSequence : Oblivious R startSequence := .modify

theorem oblivious_buildBlockTables : Oblivious R buildBlockTables := by
  dsimp only [buildBlockTables]
  exact .bind .modify fun _ => .getSet fun _ => .ite (.getSet fun _ => .ite .modify (.raise _)) (.raise _)

theorem oblivious_fetchValue (f : Format) : Oblivious R (fetchValue f) := by
  refine .ofGet fun s => ?_
  cases f with
  | blockHeader => exact oblivious_readHeader
  | litlenSymbol | distSymbol | clSymbol => exact oblivious_decodeSymbol _
  | hostCommand => exact .throw _

theorem oblivious_fetch : Oblivious R fetch := by
  refine .ofGet fun s => ?_
  cases nextFormat s with
  | none => exact .throw _
  | some f =>
    refine .bind (oblivious_fetchValue f) fun v => ?_
    cases decode f v with
    | ok i => exact .pure i
    | error r => exact .throw _

/-! ## Elements and steps -/

/-- The two outcomes agree, and next states are twins. -/
def TwinEnd (R : OutRelation) : Host.Outcome State Fault Refusal → Host.Outcome State Fault Refusal → Prop
  | .next s, .next t => Twin R s t
  | .fault f, .fault g => f = g
  | .refused r, .refused q => r = q
  | _, _ => False

theorem Twin.finish {m : M Unit} {s t : State} (h : Twin R s t) (hm : Oblivious R m) : TwinEnd R (finish m s) (finish m t) := by
  have hend := hm s t h
  unfold Twins at hend
  unfold Machine.finish
  cases hs : m s <;> cases ht : m t <;> simp only [hs, ht] at hend
  · exact hend.2
  · obtain ⟨rfl, h'⟩ := hend
    rename_i e _ _
    cases e with
    | raised e => exact h'.enterError e
    | fault f => exact rfl
    | refused r => exact rfl

theorem execStored_twin (b : Bool) {s t : State} (h : Twin R s t) : TwinEnd R (execStored b s) (execStored b t) :=
  h.finish <|
    .bind (oblivious_latchHeader b 0) fun _ => .bind .modify fun _ =>
      .bind oblivious_alignToByte fun _ => .bind oblivious_readLe16 fun _ => .bind .modify fun _ =>
        .bind oblivious_readLe16 fun _ => .bind .modify fun _ =>
          .bind oblivious_storedBody fun _ => oblivious_endOfBlock

theorem execDynamic_twin (b : Bool) {s t : State} (h : Twin R s t) : TwinEnd R (execDynamic b s) (execDynamic b t) :=
  h.finish <|
    .bind (oblivious_latchHeader b 2) fun _ => .bind .modify fun _ =>
      .bind (oblivious_readLsb 5) fun _ => .bind .modify fun _ =>
        .bind (oblivious_readLsb 5) fun _ => .bind .modify fun _ =>
          .bind (oblivious_readLsb 4) fun _ => .bind .modify fun _ =>
            .bind (oblivious_readClLengths _ _) fun _ => .bind oblivious_buildClTable fun _ => oblivious_startSequence

/-- The meaning of every element of the stream. DECODE looks at the bases (R202), and is none of them. -/
theorem meaning_twin {f : Format} {m : State → Host.Outcome State Fault Refusal} (hm : Meaning f m) (hf : f ≠ .hostCommand)
    {s t : State} (h : Twin R s t) : TwinEnd R (m s) (m t) := by
  cases hm with
  | stored b => exact execStored_twin b h
  | fixed b => exact h.finish <| .bind (oblivious_latchHeader b 1) fun _ => .modify
  | dynamic b => exact execDynamic_twin b h
  | reserved b => exact h.finish <| .bind (oblivious_latchHeader b 3) fun _ => .raise _
  | lit sym => exact h.finish <| .bind (oblivious_latchSym _) fun _ => oblivious_sinkWrite _
  | eob => exact h.finish <| .bind (oblivious_latchSym _) fun _ => oblivious_endOfBlock
  | length j => exact h.finish (oblivious_copyLength j)
  | distance k => exact h.finish (oblivious_copyDistance k)
  | clLit c => exact h.finish (oblivious_putLength _)
  | repPrev =>
    exact h.finish <| .bind (oblivious_readLsb 2) fun _ => .ofGet fun _ => .ite (.raise _) (oblivious_putRun _ _)
  | repZero => exact h.finish <| .bind (oblivious_readLsb 3) fun _ => oblivious_putRun _ _
  | repZeroLong => exact h.finish <| .bind (oblivious_readLsb 7) fun _ => oblivious_putRun _ _
  | decode => exact absurd rfl hf

theorem format_ne_host {i : Instr} (hi : i ≠ .decode) : (encode i).format ≠ .hostCommand := by
  cases i with
  | decode => exact absurd rfl hi
  | _ => exact nofun

theorem runElement_twin {s t : State} (h : Twin R s t) : TwinEnd R (runElement s) (runElement t) := by
  have hfetch := oblivious_fetch s t h
  unfold Twins at hfetch
  unfold runElement
  cases hs : fetch s <;> cases ht : fetch t <;> simp only [hs, ht] at hfetch
  · obtain ⟨rfl, h'⟩ := hfetch
    exact meaning_twin (exec_meaning _) (format_ne_host (fetch_ne_decode hs)) h'
  · obtain ⟨rfl, h'⟩ := hfetch
    rename_i e _ _
    cases e with
    | raised e => exact h'.enterError e
    | fault f => exact rfl
    | refused r => exact rfl

theorem engineStep_twin {s t : State} (h : Twin R s t) : TwinEnd R (engineStep s) (engineStep t) := by
  obtain ⟨b, -, -⟩ := id h
  have hbusy : (withBuffers b s).status.busy = s.status.busy := rfl
  have hdone : sequenceDone (withBuffers b s) = sequenceDone s := rfl
  unfold engineStep
  rw [hbusy, hdone]
  split
  · split
    · exact h.finish oblivious_buildBlockTables
    · exact runElement_twin h
  · exact h

/-- One engine step with other buffers: the outcome is the same but for OUT, and OUT of the two runs is related as before. -/
theorem engineStep_withBuffers {s : State} {b : Buffers} (h : Twin R s (withBuffers b s)) :
    (∃ t out, engineStep s = .next t ∧ engineStep (withBuffers b s) = .next (withBuffers { b with outBuf := out } t) ∧
      R.rel s.regs.outCap t.outBuf out) ∨
    (∃ f, engineStep s = .fault f ∧ engineStep (withBuffers b s) = .fault f) ∨
    ∃ r, engineStep s = .refused r ∧ engineStep (withBuffers b s) = .refused r := by
  have hend := engineStep_twin h
  cases hs : engineStep s with
  | next t =>
    cases hb : engineStep (withBuffers b s) <;> rw [hs, hb] at hend
    case next u =>
      have hu : Twin R t u := hend
      have hframe := engineStep_frame hb
      have hbuffers : buffersOf u = { b with outBuf := u.outBuf } := by rw [buffersOf, hframe.inBuf, hframe.regs]; rfl
      exact .inl ⟨t, u.outBuf, rfl, by rw [← hbuffers, ← hu.eq], (engineStep_frame hs).regs ▸ hu.output⟩
    all_goals exact hend.elim
  | fault f =>
    cases hb : engineStep (withBuffers b s) <;> rw [hs, hb] at hend
    case fault g => exact .inr (.inl ⟨f, rfl, congrArg _ hend.symm⟩)
    all_goals exact hend.elim
  | refused r =>
    cases hb : engineStep (withBuffers b s) <;> rw [hs, hb] at hend
    case refused q => exact .inr (.inr ⟨r, rfl, congrArg _ hend.symm⟩)
    all_goals exact hend.elim

end

/-- Settles O53: the step with the other IN and the other bases is the same step, and OUT is the same in both runs. -/
theorem onlyInputBelowLengthIsRead : Obligations.OnlyInputBelowLengthIsRead := by
  intro s m b b' hm
  have htwin : Twin sameOut s (withBuffers ⟨m, b, s.outBuf, b'⟩ s) := ⟨_, hm, rfl⟩
  have hb' : { s with inBuf := m, regs := { s.regs with inBase := b, outBase := b' } } = withBuffers ⟨m, b, s.outBuf, b'⟩ s := rfl
  rw [hb']
  rcases engineStep_withBuffers htwin with ⟨t, out, hs, hb, hout⟩ | ⟨f, hs, hb⟩ | ⟨r, hs, hb⟩ <;> rw [hs, hb]
  · cases hout
    rfl
  · rfl
  · rfl

/-- Settles O54: OUT of the two runs stays canonical and the same below OUT_CAP, and nothing else differs. -/
theorem outputPastCapacityIsUnobservable : Obligations.OutputPastCapacityIsUnobservable := by
  intro s m hwf hm hread
  have htwin : Twin sameBelowCap s (withBuffers { buffersOf s with outBuf := m } s) := ⟨_, fun _ _ => rfl, hwf, hm, hread⟩
  have hm' : { s with outBuf := m } = withBuffers { buffersOf s with outBuf := m } s := rfl
  rw [hm']
  rcases engineStep_withBuffers htwin with ⟨t, out, hs, hb, -, -, hbelow⟩ | ⟨f, hs, hb⟩ | ⟨r, hs, hb⟩ <;> rw [hs, hb]
  · have hbuffers : { buffersOf s with outBuf := out } = { buffersOf t with outBuf := out } := by
      rw [buffersOf, buffersOf, (engineStep_frame hs).inBuf, (engineStep_frame hs).regs]
    rw [hbuffers]
    refine ⟨rfl, fun t' u ht hu => ?_⟩
    rw [← Host.Outcome.next.inj ht, ← Host.Outcome.next.inj hu]
    exact hbelow
  · exact ⟨rfl, fun _ _ ht => nomatch ht⟩
  · exact ⟨rfl, fun _ _ ht => nomatch ht⟩

end Sys2Proof.Machine
end

section
/-! SUPPORT. The decoder and the encoder are inverse to each other, format by format (spec R72, R82 to R84, R26). -/

namespace Sys2Proof.Machine

/-- R72: the eight values of a block header. -/
theorem encode_decodeHeader {v : Nat} (hv : v < 8) :
    (decodeHeader v).WellFormed ∧ encode (decodeHeader v) = ⟨.blockHeader, v⟩ := by
  interval_cases v <;> exact ⟨rfl, rfl⟩

/-- R82: the word of each row of the table of symbols from 256 on is the symbol it stands at. -/
theorem encode_litlenFrom256 {k : Nat} {i : Instr} (h : litlenFrom256[k]? = some i) :
    i.WellFormed ∧ encode i = ⟨.litlenSymbol, 256 + k⟩ := by
  have htable : ∀ p ∈ litlenFrom256.zipIdx, p.1.WellFormed ∧ encode p.1 = ⟨.litlenSymbol, 256 + p.2⟩ := by decide
  exact htable (i, k) (List.mem_zipIdx_iff_getElem?.2 h)

/-- R83: the word of each row of the table of distance symbols is the symbol it stands at. -/
theorem encode_distFrom0 {k : Nat} {i : Instr} (h : distFrom0[k]? = some i) : i.WellFormed ∧ encode i = ⟨.distSymbol, k⟩ := by
  have htable : ∀ p ∈ distFrom0.zipIdx, p.1.WellFormed ∧ encode p.1 = ⟨.distSymbol, p.2⟩ := by decide
  exact htable (i, k) (List.mem_zipIdx_iff_getElem?.2 h)

/-- R82. -/
theorem encode_of_decodeLitlen {v : Nat} {i : Instr} (h : decodeLitlen v = .ok i) :
    i.WellFormed ∧ encode i = ⟨.litlenSymbol, v⟩ := by
  unfold decodeLitlen at h
  split at h
  case isTrue hv =>
    cases h
    have hval : (BitVec.ofNat 9 v).toNat = v := BitVec.toNat_ofNat _ _ ▸ Nat.mod_eq_of_lt (by omega)
    exact ⟨decide_eq_true (hval.symm ▸ hv), congrArg (Encoded.mk _) hval⟩
  case isFalse hv =>
    split at h <;> cases h
    have hrow := encode_litlenFrom256 ‹_›
    rwa [Nat.add_sub_cancel' (by omega)] at hrow

/-- R83. -/
theorem encode_of_decodeDist {v : Nat} {i : Instr} (h : decodeDist v = .ok i) : i.WellFormed ∧ encode i = ⟨.distSymbol, v⟩ := by
  unfold decodeDist at h
  split at h <;> cases h
  exact encode_distFrom0 ‹_›

/-- R84. -/
theorem encode_of_decodeCl {v : Nat} {i : Instr} (h : decodeCl v = .ok i) : i.WellFormed ∧ encode i = ⟨.clSymbol, v⟩ := by
  unfold decodeCl at h
  split_ifs at h with hv h16 h17 h18 <;> cases h
  · have hval : (BitVec.ofNat 5 v).toNat = v := BitVec.toNat_ofNat _ _ ▸ Nat.mod_eq_of_lt (by omega)
    exact ⟨decide_eq_true (hval.symm ▸ hv), congrArg (Encoded.mk _) hval⟩
  · exact ⟨rfl, h16 ▸ rfl⟩
  · exact ⟨rfl, h17 ▸ rfl⟩
  · exact ⟨rfl, h18 ▸ rfl⟩

/-- R91: what a value decodes to is an instruction of the stream, and its word is that value. -/
theorem encode_of_decode {f : Format} {v : Nat} {i : Instr} (h : decode f v = .ok i) : i.WellFormed ∧ encode i = ⟨f, v⟩ := by
  unfold decode at h
  split at h
  case isTrue => cases h
  case isFalse hv =>
    cases f with
    | blockHeader =>
      cases h
      exact encode_decodeHeader (not_le.1 hv)
    | litlenSymbol => exact encode_of_decodeLitlen h
    | distSymbol => exact encode_of_decodeDist h
    | clSymbol => exact encode_of_decodeCl h
    | hostCommand =>
      dsimp only at h
      split at h <;> cases h
      subst v
      exact ⟨rfl, rfl⟩

/-- R91: the word of an instruction of the stream decodes to it. -/
theorem decode_encode {i : Instr} (h : i.WellFormed) : decode (encode i).format (encode i).value = .ok i := by
  cases i with
  | stored b | fixed b | dynamic b | reserved b => cases b <;> rfl
  | lit sym =>
    have hsym : sym.toNat < 256 := of_decide_eq_true h
    have hfits : ¬ 512 ≤ sym.toNat := by omega
    simp [encode, decode, Format.width, decodeLitlen, hsym, hfits]
  | clLit c =>
    have hc : c.toNat < 16 := of_decide_eq_true h
    have hfits : ¬ 32 ≤ c.toNat := by omega
    simp [encode, decode, Format.width, decodeCl, hc, hfits]
  | _ => rfl

/-- Settles O1: a decoded value is its instruction's word, and the word of a well-formed instruction decodes to it. -/
theorem decodeInvertsEncode : Obligations.DecodeInvertsEncode := by
  intro f v i
  refine ⟨encode_of_decode, fun ⟨hwf, hword⟩ => ?_⟩
  simpa [hword] using decode_encode hwf

/-- R82: no row of the table of literal/length symbols stands at 288 or above. -/
theorem decodeLitlen_of_ge {v : Nat} (hv : 288 ≤ v) : decodeLitlen v = .error .outsideLitlenAlphabet := by
  have hnone : litlenFrom256[v - 256]? = none := List.getElem?_eq_none (show 32 ≤ v - 256 by omega)
  rw [decodeLitlen, if_neg (by omega), hnone]

/-- R84: no code-length symbol is 19 or above. -/
theorem decodeCl_of_ge {v : Nat} (hv : 19 ≤ v) : decodeCl v = .error .outsideCodeLengthAlphabet := by
  rw [decodeCl, if_neg (by omega), if_neg (by omega), if_neg (by omega), if_neg (by omega)]

/-- Settles O2: a value below its alphabet's size is an instruction (decode_of_lt), and each kind of other value has its reason. -/
theorem rejectedValues : Obligations.RejectedValues := by
  intro f v
  constructor
  · rintro ⟨r, hr⟩
    have hsize : ¬ v < alphabetSize f := fun hv => by
      obtain ⟨i, hi⟩ := decode_of_lt hv
      rw [hi] at hr
      cases hr
    cases f with
    | blockHeader | distSymbol => exact .inl (not_lt.1 hsize)
    | litlenSymbol => exact .inr (.inl ⟨rfl, not_lt.1 hsize⟩)
    | clSymbol => exact .inr (.inr (.inl ⟨rfl, not_lt.1 hsize⟩))
    | hostCommand =>
      by_cases hwide : 2 ≤ v
      · exact .inl hwide
      · have hne : v ≠ 1 := by rintro rfl; cases hr
        exact .inr (.inr (.inr ⟨rfl, by omega⟩))
  · by_cases hwide : 2 ^ f.width ≤ v
    · exact fun _ => ⟨.tooWide, if_pos hwide⟩
    rintro (h | ⟨rfl, hv⟩ | ⟨rfl, hv⟩ | ⟨rfl, rfl⟩)
    · exact absurd h hwide
    · exact ⟨_, (if_neg hwide).trans (decodeLitlen_of_ge hv)⟩
    · exact ⟨_, (if_neg hwide).trans (decodeCl_of_ge hv)⟩
    · exact ⟨.noStart, rfl⟩

/-- Settles O3: each word is the encoding of its instruction. -/
theorem specWordsDecode : Obligations.SpecWordsDecode := by
  unfold Obligations.SpecWordsDecode
  and_intros <;> exact (decodeInvertsEncode _ _ _).2 ⟨rfl, rfl⟩

end Sys2Proof.Machine
end

section
/-! SUPPORT. Reading one element and running it (spec R91, R140, R150, R151), and the host's START (spec R200). -/

namespace Sys2Proof.Machine

/-! ## Symbols -/

theorem length_le_bitsLeft {s : State} {n : Nat} (h : readable s n) : n ≤ bitsLeft s := by
  obtain ⟨-, rfl | h⟩ := h
  · exact Nat.zero_le _
  · unfold bitsLeft
    unfold bitPos at h
    omega

/-- R140: bits that lead from the root to a leaf are read as its symbol. -/
theorem decodeSymbol_leaf {t : List Slot} {s : State} {bs : List Bool} {v : Nat} (hl : slotAfter t (.node 0) bs = some (.leaf v))
    (hr : readable s bs.length) (hb : bitsAt s (bitPos s.cur) bs) :
    ∃ p, decodeSymbol t s = .ok v (afterWalk bs.length p s) :=
  walkTrie_leaf (Nat.le_succ_of_le (length_le_bitsLeft hr)) hb hr hl

theorem fetchValue_of_tableOf {s : State} {f : Format} {t : List Slot} (h : tableOf s f = some t) :
    fetchValue f s = decodeSymbol t s := by
  cases f <;> cases h <;> rfl

theorem fetch_of_value {s t : State} {f : Format} {v : Nat} {i : Instr} (hf : nextFormat s = some f)
    (hv : fetchValue f s = .ok v t) (hd : decode f v = .ok i) : fetch s = .ok i t := by
  simp [fetch, hf, hv, hd]

/-- R91, R140: bits that lead to the leaf of a symbol are fetched as its instruction, and no bit more is consumed. -/
theorem fetch_symbol {s : State} {f : Format} {t : List Slot} {bs : List Bool} {v : Nat} {i : Instr} (hf : nextFormat s = some f)
    (ht : tableOf s f = some t) (hl : slotAfter t (.node 0) bs = some (.leaf v)) (hd : decode f v = .ok i)
    (hr : readable s bs.length) (hb : bitsAt s (bitPos s.cur) bs) : ∃ p, fetch s = .ok i (afterWalk bs.length p s) := by
  obtain ⟨p, hp⟩ := decodeSymbol_leaf hl hr hb
  exact ⟨p, fetch_of_value hf ((fetchValue_of_tableOf ht).trans hp) hd⟩

/-! ## Block headers -/

theorem readMsb_one_ok {s : State} {n : Nat} (h : readable s (n + 1)) :
    readMsb 1 s = .ok (streamBit s (bitPos s.cur)).toNat { s with cur := advance s.cur 1 } := by
  rw [readMsb_one, readBit_ok (readable_succ h).1 h.1]

/-- R151: the state after `n` bits of a header have been read; BFINAL_L holds the first of them. -/
def afterHeader (n : Nat) (s : State) : State :=
  { s with
    cur := advance s.cur n
    hdr := { s.hdr with bfinal := BitVec.ofNat 1 (streamBit s (bitPos s.cur)).toNat } }

theorem readMsb_one_afterHeader {s : State} {n : Nat} (h : readable s (n + 1)) :
    readMsb 1 (afterHeader n s) = .ok (streamBit s (bitPos s.cur + n)).toNat (afterHeader (n + 1) s) := by
  have hr : readable (afterHeader n s) 1 := readable_advance (s := s) h
  rw [readMsb_one_ok hr]
  simp only [afterHeader, bitPos_advance, advance_advance]
  rfl

/-- R72, R151: the header value is the field of three bits, first bit lowest. -/
theorem readHeader_ok {s : State} (h : readable s 3) : readHeader s = .ok (fieldLsb s (bitPos s.cur) 3) (afterHeader 3 s) := by
  have hf := readMsb_one_ok h
  have hb0 := readMsb_one_afterHeader (n := 1) (readable_of_le h (by decide))
  have hb1 := readMsb_one_afterHeader (n := 2) h
  exact (bind_of_ok hf).trans ((bind_of_ok (t := afterHeader 1 s) rfl).trans ((bind_of_ok hb0).trans (bind_of_ok hb1)))

/-! ## Steps -/

theorem sequenceDone_of_blockHeader {s : State} (h : nextFormat s = some .blockHeader) : sequenceDone s = false := by
  unfold nextFormat at h
  unfold sequenceDone
  split at h <;> simp_all

/-- R91, R150: with the host out of the way a running engine runs the element it fetches. -/
theorem step_of_fetch {s t : State} {i : Instr} (hq : s.hostQ = []) (hb : s.status.busy = true) (hd : sequenceDone s = false)
    (hf : fetch s = .ok i t) : step s = exec i t := by
  simp [step, platformStep, hq, engineStep, hb, hd, runElement, hf]

/-- R26, R200: a write to CTRL with bit 0 = 1 is the command DECODE. -/
theorem writeCtrl_of_bit_one {v : Data} (hv : v.getLsbD 0 = true) (s : State) : writeCtrl v s = exec .decode s := by
  have h1 : v.toNat % 2 = 1 := by simpa [BitVec.getLsbD] using hv
  unfold writeCtrl
  rw [h1]
  rfl

/-- Settles O6: a header and a symbol are fetched from the bits at the cursor and then run; START is the access that runs DECODE. -/
theorem stepRunsDecodedInstruction : Obligations.StepRunsDecodedInstruction := by
  refine ⟨fun s i hq hb hf hr hd => ?_, fun s f t bs v i hq hb hdone hf ht hl hd hr hbits => ?_, fun s v q hq hv => ?_⟩
  · exact step_of_fetch hq hb (sequenceDone_of_blockHeader hf) (fetch_of_value hf (readHeader_ok hr) hd)
  · obtain ⟨p, hp⟩ := fetch_symbol hf ht hl hd hr hbits
    exact ⟨p, step_of_fetch hq hb hdone hp⟩
  · rw [step_access hq]
    exact writeCtrl_of_bit_one hv _

end Sys2Proof.Machine
end

section
/-! SUPPORT. The fixed codes in the fixed tables (spec R85, R86, R117): the codes of consecutive symbols are consecutive numbers, so they
fall into runs that share their leading bits, and a run of 2^h codes is a complete subtree of height h whose leaves are its symbols in
order. -/

namespace Sys2Proof.Machine

/-! ## The bits of a code -/

@[simp] theorem length_bitsMsb (n v : Nat) : (bitsMsb n v).length = n := by simp [bitsMsb]

theorem bitsMsb_succ (n v : Nat) : bitsMsb (n + 1) v = v.testBit n :: bitsMsb n v := by simp [bitsMsb, List.range_succ]

/-- The `n + h` bits of a number whose low `h` bits are `j`. -/
theorem bitsMsb_append (n c : Nat) {h j : Nat} (hj : j < 2 ^ h) : bitsMsb (n + h) (2 ^ h * c + j) = bitsMsb n c ++ bitsMsb h j := by
  induction n with
  | zero =>
    rw [Nat.zero_add]
    refine congrArg List.reverse (List.map_congr_left fun k hk => ?_)
    rw [Nat.testBit_two_pow_mul_add c hj, if_pos (List.mem_range.1 hk)]
  | succ n ih =>
    rw [Nat.add_right_comm, bitsMsb_succ, ih, bitsMsb_succ, Nat.testBit_two_pow_mul_add c hj]
    simp

theorem slotAfter_append (t : List Slot) (sl : Slot) (as bs : List Bool) :
    slotAfter t sl (as ++ bs) = (slotAfter t sl as).bind fun sl' => slotAfter t sl' bs := by
  induction as generalizing sl with
  | nil => rfl
  | cons a as ih =>
    cases sl with
    | empty | leaf v => rfl
    | node k => exact ih _

/-! ## Complete subtrees -/

/-- The slot that stands for a complete subtree of height `h`: its first node is `k` and its first symbol is `v`. -/
def subtreeRoot (h k v : Nat) : Slot := if h = 0 then .leaf v else .node k

/-- The slots of the nodes of that subtree in preorder, the order in which the table compiler numbers nodes (R132). -/
def subtreeSlots : Nat → Nat → Nat → List Slot
  | 0, _, _ => []
  | h + 1, k, v =>
    subtreeRoot h (k + 1) v :: subtreeRoot h (k + 2 ^ h) (v + 2 ^ h) ::
      (subtreeSlots h (k + 1) v ++ subtreeSlots h (k + 2 ^ h) (v + 2 ^ h))

theorem length_subtreeSlots (h k v : Nat) : (subtreeSlots h k v).length = 2 * (2 ^ h - 1) := by
  induction h generalizing k v with
  | zero => rfl
  | succ h ih =>
    have hpos := Nat.two_pow_pos h
    simp only [subtreeSlots, List.length_cons, List.length_append, ih]
    omega

theorem getD_of_cons_prefix_drop {α : Type} {a : α} {l t : List α} {n : Nat} (h : a :: l <+: t.drop n) (d : α) :
    t.getD n d = a ∧ l <+: t.drop (n + 1) := by
  obtain ⟨post, hpost⟩ := h
  constructor
  · have hget : t[n]? = some a := by simpa [← hpost] using (List.getElem?_drop (xs := t) (i := n) (j := 0)).symm
    rw [List.getD_eq_getElem?_getD, hget, Option.getD_some]
  · exact ⟨post, by rw [← List.drop_drop, ← hpost]; rfl⟩

theorem prefix_drop_of_append {α : Type} {l l' t : List α} {n : Nat} (h : l ++ l' <+: t.drop n) :
    l <+: t.drop n ∧ l' <+: t.drop (n + l.length) := by
  obtain ⟨post, hpost⟩ := h
  exact ⟨⟨l' ++ post, by rw [← hpost, List.append_assoc]⟩, ⟨post, by simp [← List.drop_drop, ← hpost]⟩⟩

/-- The bits of a number lead through a complete subtree to the leaf of that number. -/
theorem slotAfter_subtree {t : List Slot} {h k v j : Nat} (ht : subtreeSlots h k v <+: t.drop (2 * k)) (hj : j < 2 ^ h) :
    slotAfter t (subtreeRoot h k v) (bitsMsb h j) = some (.leaf (v + j)) := by
  induction h generalizing k v j with
  | zero =>
    obtain rfl : j = 0 := by simpa using hj
    rfl
  | succ h ih =>
    obtain ⟨hzero, ht⟩ := getD_of_cons_prefix_drop ht .empty
    obtain ⟨hone, ht⟩ := getD_of_cons_prefix_drop ht .empty
    obtain ⟨hleft, hright⟩ := prefix_drop_of_append ht
    have hroot : subtreeRoot (h + 1) k v = .node k := rfl
    rw [hroot, bitsMsb_succ]
    by_cases hlow : j < 2 ^ h
    · rw [Nat.testBit_lt_two_pow hlow]
      show slotAfter t (t.getD (2 * k) .empty) _ = _
      rw [hzero]
      exact ih hleft hlow
    · obtain ⟨j, rfl⟩ := Nat.exists_eq_add_of_le (not_lt.1 hlow)
      have hj : j < 2 ^ h := by rw [Nat.pow_succ] at hj; omega
      have hbits : bitsMsb h (2 ^ h + j) = bitsMsb h j := by simpa [bitsMsb] using bitsMsb_append 0 1 hj
      have hnode : 2 * k + 1 + 1 + (subtreeSlots h (k + 1) v).length = 2 * (k + 2 ^ h) := by
        have hpos := Nat.two_pow_pos h
        rw [length_subtreeSlots]
        omega
      rw [hbits, Nat.testBit_two_pow_add_eq, Nat.testBit_lt_two_pow hj, ← Nat.add_assoc]
      show slotAfter t (t.getD (2 * k + 1) .empty) _ = _
      rw [hone]
      exact ih (hnode ▸ hright) hj

/-! ## Runs of codes -/

/-- Consecutive codes that share the leading bits `stem`: 2^height of them, for the symbols from `first` on. -/
structure CodeRun where
  stemLen : Nat
  stem : Nat
  height : Nat
  first : Nat

/-- The stem of the run leads to the complete subtree of the run's symbols, and the node `k` is its root. -/
def CodeRun.At (t : List Slot) (r : CodeRun) (k : Nat) : Prop :=
  slotAfter t (.node 0) (bitsMsb r.stemLen r.stem) = some (subtreeRoot r.height k r.first) ∧
    subtreeSlots r.height k r.first <+: t.drop (2 * k)

/-- The code of each symbol of a run leads to the leaf of that symbol. -/
theorem slotAfter_of_codeRun {t : List Slot} {r : CodeRun} {k : Nat} (hr : r.At t k) {j : Nat} (hj : j < 2 ^ r.height) :
    slotAfter t (.node 0) (bitsMsb (r.stemLen + r.height) (2 ^ r.height * r.stem + j)) = some (.leaf (r.first + j)) := by
  obtain ⟨hstem, hslots⟩ := hr
  rw [bitsMsb_append _ _ hj, slotAfter_append, hstem]
  exact slotAfter_subtree hslots hj

/-- R85: the runs of the fixed literal/length codes, each with the node of FIXED_LL_TRIE its stem leads to. -/
def fixedLitlenRuns : List (CodeRun × Nat) :=
  [(⟨4, 0b0011, 4, 0⟩, 4), (⟨2, 0b01, 6, 16⟩, 19), (⟨2, 0b10, 6, 80⟩, 83),
   (⟨5, 0b11001, 4, 144⟩, 149), (⟨4, 0b1101, 5, 160⟩, 164), (⟨3, 0b111, 6, 192⟩, 195),
   (⟨3, 0b000, 4, 256⟩, 258), (⟨4, 0b0010, 3, 272⟩, 273), (⟨5, 0b11000, 3, 280⟩, 280)]

theorem fixedLitlenRuns_at : ∀ p ∈ fixedLitlenRuns, p.1.At fixedLlTrie.toList p.2 := by
  unfold CodeRun.At
  decide +kernel

/-- R85: the code of every literal/length symbol is in one of the runs. -/
theorem fixedLitlenCode_run : ∀ v < 288, ∃ p ∈ fixedLitlenRuns, p.1.first ≤ v ∧ v - p.1.first < 2 ^ p.1.height ∧
    fixedLitlenCode v = (p.1.stemLen + p.1.height, 2 ^ p.1.height * p.1.stem + (v - p.1.first)) := by
  decide +kernel

/-- R85, R117: the fixed code of a literal/length symbol leads to its leaf. -/
theorem slotAfter_fixedLitlenCode {v : Nat} (hv : v < 288) :
    slotAfter fixedLlTrie.toList (.node 0) (bitsMsb (fixedLitlenCode v).1 (fixedLitlenCode v).2) = some (.leaf v) := by
  obtain ⟨p, hp, hle, hj, hcode⟩ := fixedLitlenCode_run v hv
  rw [hcode, slotAfter_of_codeRun (fixedLitlenRuns_at p hp) hj, Nat.add_sub_cancel' hle]

/-- R86, R117: FIXED_D_TRIE is one complete subtree, so the fixed code of a distance symbol leads to its leaf. -/
theorem slotAfter_fixedDistCode {v : Nat} (hv : v < 32) : slotAfter fixedDTrie.toList (.node 0) (bitsMsb 5 v) = some (.leaf v) := by
  have ht : subtreeSlots 5 0 0 <+: fixedDTrie.toList.drop (2 * 0) := by decide
  simpa [subtreeRoot] using slotAfter_subtree ht hv

/-! ## Fetching from a fixed block -/

/-- Settles O4: a literal/length value that is an instruction is below 288, and its fixed code leads to its leaf. -/
theorem fixedLitlenCodesAreRead : Obligations.FixedLitlenCodesAreRead := by
  intro s v i hblk hloop hd hr hb
  have hv : v < 288 := by
    by_contra hv
    obtain ⟨r, he⟩ := (rejectedValues .litlenSymbol v).2 (.inr (.inl ⟨rfl, not_lt.1 hv⟩))
    rw [he] at hd
    cases hd
  have hf : nextFormat s = some .litlenSymbol := by simp [nextFormat, hblk, hloop]
  have ht : tableOf s .litlenSymbol = some fixedLlTrie.toList := by simp [tableOf, litlenTable, hblk]
  have hfetch := fetch_symbol hf ht (slotAfter_fixedLitlenCode hv) hd (by rwa [length_bitsMsb]) hb
  rwa [length_bitsMsb] at hfetch

/-- Settles O5: a distance value that is an instruction is below 32, and its five bits lead to its leaf. -/
theorem fixedDistCodesAreRead : Obligations.FixedDistCodesAreRead := by
  intro s v i hblk hloop hd hr hb
  have hv : v < 32 := by
    by_contra hv
    obtain ⟨r, he⟩ := (rejectedValues .distSymbol v).2 (.inl (not_lt.1 hv))
    rw [he] at hd
    cases hd
  have hf : nextFormat s = some .distSymbol := by simp [nextFormat, hblk, hloop]
  have ht : tableOf s .distSymbol = some fixedDTrie.toList := by simp [tableOf, distTable, hblk]
  have hfetch := fetch_symbol hf ht (slotAfter_fixedDistCode hv) hd (by rwa [length_bitsMsb]) hb
  rwa [length_bitsMsb] at hfetch

end Sys2Proof.Machine
end

section
/-! SUPPORT. The two readers of bit fields (spec R101, R102, R106): which bit of the value each bit of IN becomes, and that both end in the
same place where IN ends. -/

namespace Sys2Proof.Machine

/-! ## Fields of the stream -/

/-- R101: bit `k` of a field read first bit lowest is the bit of IN `k` places after its start. -/
theorem testBit_fieldLsb (s : State) (p : Nat) {n k : Nat} (hk : k < n) :
    (fieldLsb s p n).testBit k = streamBit s (p + k) := by
  induction n generalizing p k with
  | zero => exact absurd hk (Nat.not_lt_zero k)
  | succ n ih =>
    have hbit : fieldLsb s p (n + 1) = Nat.bit (streamBit s p) (fieldLsb s (p + 1) n) := by
      rw [fieldLsb, Nat.bit_val, Nat.add_comm]
    rw [hbit]
    cases k with
    | zero => exact Nat.testBit_bit_zero _ _
    | succ k => rw [Nat.testBit_bit_succ, ih _ (Nat.lt_of_succ_lt_succ hk), Nat.add_assoc, Nat.add_comm 1]

/-- R102: the `n`-bit field that begins at bit number `p` of IN, first bit highest. -/
def fieldMsb (s : State) (p : Nat) : Nat → Nat
  | 0 => 0
  | n + 1 => 2 ^ n * (streamBit s p).toNat + fieldMsb s (p + 1) n

@[simp] theorem fieldMsb_cur (s : State) (c : Cursor) (p n : Nat) : fieldMsb { s with cur := c } p n = fieldMsb s p n := by
  induction n generalizing p with
  | zero => rfl
  | succ n ih => simp [fieldMsb, streamBit, ih]

theorem fieldMsb_lt (s : State) (p n : Nat) : fieldMsb s p n < 2 ^ n := by
  induction n generalizing p with
  | zero => exact Nat.one_pos
  | succ n ih =>
    have hlow := ih (p + 1)
    rw [fieldMsb, Nat.pow_succ]
    cases streamBit s p <;> simp <;> omega

/-- R102: bit `n - 1 - k` of a field read first bit highest is the bit of IN `k` places after its start. -/
theorem testBit_fieldMsb (s : State) (p : Nat) {n k : Nat} (hk : k < n) :
    (fieldMsb s p n).testBit (n - 1 - k) = streamBit s (p + k) := by
  induction n generalizing p k with
  | zero => exact absurd hk (Nat.not_lt_zero k)
  | succ n ih =>
    rw [fieldMsb, Nat.testBit_two_pow_mul_add _ (fieldMsb_lt s (p + 1) n)]
    cases k with
    | zero =>
      rw [if_neg (by omega), Nat.testBit_bool_toNat]
      simp
    | succ k =>
      have hpos : n + 1 - 1 - (k + 1) = n - 1 - k := by omega
      rw [hpos, if_pos (by omega), ih _ (Nat.lt_of_succ_lt_succ hk), Nat.add_assoc, Nat.add_comm 1]

/-! ## Reading most significant bit first -/

/-- R102: the loop of ReadMSB puts the field below the value so far. -/
theorem readMsbFrom_ok {s : State} {n : Nat} (v : Nat) (h : readable s n) :
    readMsbFrom n v s = .ok (2 ^ n * v + fieldMsb s (bitPos s.cur) n) { s with cur := advance s.cur n } := by
  induction n generalizing s v with
  | zero => simp [readMsbFrom, fieldMsb]
  | succ n ih =>
    obtain ⟨hin, hrest⟩ := readable_succ h
    have hval (b f : Nat) : 2 ^ n * (2 * v + b) + f = 2 ^ (n + 1) * v + (2 ^ n * b + f) := by ring
    simp [readMsbFrom, readBit_ok hin h.1, ih _ hrest, fieldMsb, hval, Nat.add_comm 1]

/-- R102: `n` bits inside IN give their field, first bit highest, and the cursor moves `n` bits on. -/
theorem readMsb_ok {s : State} {n : Nat} (h : readable s n) :
    readMsb n s = .ok (fieldMsb s (bitPos s.cur) n) { s with cur := advance s.cur n } := by
  rw [readMsb, readMsbFrom_ok 0 h, Nat.mul_zero, Nat.zero_add]

/-- R101, R102: both readers read the same bits, so where ReadLSB stops the loop of ReadMSB stops too. -/
theorem readMsbFrom_of_readLsb_error {n : Nat} {s t : State} {e : Stop} (v : Nat) (h : readLsb n s = .error e t) :
    readMsbFrom n v s = .error e t := by
  induction n generalizing s v with
  | zero => cases h
  | succ n ih =>
    cases hb : readBit s with
    | error e' s' =>
      rw [readLsb, bind_of_error hb] at h
      rw [readMsbFrom, bind_of_error hb]
      exact h
    | ok b s' =>
      rw [readLsb, bind_of_ok hb, bind_apply] at h
      rw [readMsbFrom, bind_of_ok hb]
      cases hr : readLsb n s' with
      | ok x u => rw [hr] at h; cases h
      | error e' u => rw [hr] at h; cases h; exact ih _ hr

/-- R102, R225: where IN ends before the field, ReadMSB ends like ReadLSB. -/
theorem readMsb_end {s : State} {n : Nat} (hw : s.regs.inLen < 2 ^ s.cfg.addrW) (hn : n ≠ 0)
    (h : 8 * s.regs.inLen < bitPos s.cur + n) :
    readMsb n s = .error (.raised .endOfInput) { s with cur := endCursor s } :=
  readMsbFrom_of_readLsb_error 0 (readLsb_end hw hn h)

/-! ## The two statements -/

/-- Settles O7: the value is the field of the stream at the cursor, first bit lowest. -/
theorem readLsbFirstBitLowest : Obligations.ReadLsbFirstBitLowest := by
  intro s n
  refine ⟨fun hr => ⟨_, readLsb_ok hr, fieldLsb_lt .., fun k hk => testBit_fieldLsb s _ hk⟩, readLsb_end, ?_⟩
  rw [readLsb, pure_apply]

/-- Settles O8: the value is the field of the stream at the cursor, first bit highest. -/
theorem readMsbFirstBitHighest : Obligations.ReadMsbFirstBitHighest := by
  intro s n hn
  exact ⟨fun hr => ⟨_, readMsb_ok hr, fieldMsb_lt .., fun k hk => testBit_fieldMsb s _ hk⟩, fun hw => readMsb_end hw hn⟩

end Sys2Proof.Machine
end

section
/-! SUPPORT. Compiling a run of codes (spec R117, R132): the canonical codes of consecutive symbols that share a stem are inserted as one
complete subtree, so a table is compiled run by run. -/

namespace Sys2Proof.Machine

/-! ## Tables under construction -/

/-- R131, R132: the table of an alphabet of `n` symbols whose root and counted nodes have the slots `used`; all other slots are EMPTY. -/
def usedTrie (n : Nat) (used : List Slot) : Trie :=
  { slots := used ++ List.replicate (2 * (n - 1) - used.length) .empty, nodes := used.length / 2 - 1 }

/-- A node numbered next, with both slots EMPTY, that slot `p` points to (R132). -/
def openNode (used : List Slot) (p : Nat) : List Slot := used.set p (.node (used.length / 2)) ++ [.empty, .empty]

/-- A complete subtree of height `h` at slot `p`, its symbols from `v` on and its nodes numbered next. -/
def plantSubtree (used : List Slot) (p h v : Nat) : List Slot :=
  used.set p (subtreeRoot h (used.length / 2) v) ++ subtreeSlots h (used.length / 2) v

/-- The `m` bits of `c` lead from the root to the node `k`. -/
def LeadsTo (used : List Slot) (m c k : Nat) : Prop := slotAfter used (.node 0) (bitsMsb m c) = some (.node k)

@[simp] theorem length_openNode (used : List Slot) (p : Nat) : (openNode used p).length = used.length + 2 := by simp [openNode]

@[simp] theorem length_plantSubtree (used : List Slot) (p h v : Nat) :
    (plantSubtree used p h v).length = used.length + 2 * (2 ^ h - 1) := by
  simp [plantSubtree, length_subtreeSlots]

theorem emptyTrie_eq_usedTrie {n : Nat} (hn : 2 ≤ n) : emptyTrie n = usedTrie n [.empty, .empty] := by
  obtain ⟨n, rfl⟩ := Nat.exists_eq_add_of_le' hn
  rfl

theorem usedTrie_getD (n : Nat) (used : List Slot) (p : Nat) : (usedTrie n used).slots.getD p .empty = used.getD p .empty := by
  rw [usedTrie, List.getD_eq_getElem?_getD, List.getD_eq_getElem?_getD, List.getElem?_append]
  split
  · rfl
  · next h =>
    rw [List.getElem?_eq_none (not_lt.1 h), List.getElem?_replicate]
    split <;> rfl

theorem node_of_slotAfter_node {t : List Slot} {sl : Slot} {bs : List Bool} {k : Nat} (h : slotAfter t sl bs = some (.node k)) :
    ∃ j, sl = .node j := by
  cases sl with
  | node j => exact ⟨j, rfl⟩
  | empty | leaf v => cases bs <;> cases h

/-! ## Inserting one code -/

theorem insertCode_node {n v c m k j : Nat} {t : Trie} (h : t.slots.getD (2 * k + c / 2 ^ (m + 1) % 2) .empty = .node j) :
    insertCode n v c (m + 2) k t = insertCode n v c (m + 1) j t := by
  conv_lhs => unfold insertCode
  dsimp only
  rw [Nat.shiftRight_eq_div_pow, h]

/-- R132: the last bit of a code puts the leaf into its EMPTY slot. -/
theorem insertCode_leaf {n v c k : Nat} {used : List Slot} (h : used[2 * k + c % 2]? = some .empty) :
    insertCode n v c 1 k (usedTrie n used) = .ok (usedTrie n (plantSubtree used (2 * k + c % 2) 0 v)) := by
  have hlt := (List.getElem?_eq_some_iff.1 h).1
  have hget : (usedTrie n used).slots.getD (2 * k + c % 2) .empty = .empty := by
    rw [usedTrie_getD, List.getD_eq_getElem?_getD, h, Option.getD_some]
  unfold insertCode
  dsimp only
  rw [Nat.shiftRight_zero, hget]
  simp [usedTrie, plantSubtree, subtreeRoot, subtreeSlots, List.set_append_left _ _ hlt]

/-- R132: an EMPTY slot on the way is given a new node, so a code goes in as if that node had been there before. -/
theorem insertCode_openNode {n v c m k : Nat} {used : List Slot} (h : used[2 * k + c / 2 ^ (m + 1) % 2]? = some .empty)
    (heven : 2 ∣ used.length) (hroom : used.length + 2 ≤ 2 * (n - 1)) :
    insertCode n v c (m + 2) k (usedTrie n used) =
      insertCode n v c (m + 1) (used.length / 2) (usedTrie n (openNode used (2 * k + c / 2 ^ (m + 1) % 2))) := by
  have hlt := (List.getElem?_eq_some_iff.1 h).1
  have hget : (usedTrie n used).slots.getD (2 * k + c / 2 ^ (m + 1) % 2) .empty = .empty := by
    rw [usedTrie_getD, List.getD_eq_getElem?_getD, h, Option.getD_some]
  have hnodes : (usedTrie n used).nodes + 1 = used.length / 2 := by simp only [usedTrie]; omega
  have htrie (sl : Slot) : ({ slots := (usedTrie n used).slots.set (2 * k + c / 2 ^ (m + 1) % 2) sl, nodes := used.length / 2 } : Trie) =
      usedTrie n (used.set (2 * k + c / 2 ^ (m + 1) % 2) sl ++ [.empty, .empty]) := by
    have hfree : 2 * (n - 1) - used.length = 2 + (2 * (n - 1) - (used.length + 2)) := by omega
    simp [usedTrie, List.set_append_left _ _ hlt, hfree, List.replicate_add, List.replicate_succ]
  conv_lhs => unfold insertCode
  dsimp only
  rw [Nat.shiftRight_eq_div_pow, hget]
  dsimp only
  rw [hnodes, if_neg (by omega), htrie, openNode]

/-- R132: a code whose leading bits lead to a node goes on from that node. -/
theorem insertCode_of_slotAfter {n v c e m i k : Nat} {used : List Slot}
    (h : slotAfter used (.node i) (bitsMsb m (c / 2 ^ (e + 1))) = some (.node k)) :
    insertCode n v c (m + (e + 1)) i (usedTrie n used) = insertCode n v c (e + 1) k (usedTrie n used) := by
  induction m generalizing i with
  | zero =>
    cases h
    rw [Nat.zero_add]
  | succ m ih =>
    rw [bitsMsb_succ, slotAfter, Nat.testBit_div_two_pow, Nat.toNat_testBit] at h
    obtain ⟨j, hsl⟩ := node_of_slotAfter_node h
    rw [hsl] at h
    rw [← ih h, Nat.add_right_comm m 1]
    exact insertCode_node (by rw [usedTrie_getD]; exact hsl)

/-! ## Where bits lead -/

theorem LeadsTo.next {used : List Slot} {m c k j : Nat} (h : LeadsTo used m (c / 2) k)
    (hsl : used[2 * k + c % 2]? = some (.node j)) : LeadsTo used (m + 1) c j := by
  have hc : bitsMsb (m + 1) c = bitsMsb m (c / 2) ++ [c.testBit 0] := by
    have hbits := bitsMsb_append m (c / 2) (h := 1) (Nat.mod_lt c Nat.two_pos)
    rw [Nat.pow_one, Nat.div_add_mod] at hbits
    simpa [bitsMsb] using hbits
  rw [LeadsTo, hc, slotAfter_append, h, Option.bind_some, slotAfter, Nat.toNat_testBit, Nat.pow_zero, Nat.div_one,
    List.getD_eq_getElem?_getD, hsl]
  rfl

/-- What goes into an EMPTY slot and behind the slots in use changes no way to a node. -/
theorem LeadsTo.grow {used more : List Slot} {m c k p : Nat} (h : LeadsTo used m c k) (hp : used[p]? = some .empty) (sl : Slot) :
    LeadsTo (used.set p sl ++ more) m c k := by
  unfold LeadsTo at h ⊢
  generalize bitsMsb m c = bs at h ⊢
  generalize (0 : Nat) = i at h ⊢
  induction bs generalizing i with
  | nil => exact h
  | cons b bs ih =>
    rw [slotAfter] at h ⊢
    obtain ⟨j, hsl⟩ := node_of_slotAfter_node h
    rw [hsl] at h
    have hget : (used.set p sl ++ more).getD (2 * i + b.toNat) .empty = .node j := by
      rw [List.getD_eq_getElem?_getD] at hsl ⊢
      by_cases hlt : 2 * i + b.toNat < used.length
      · have hne : p ≠ 2 * i + b.toNat := by rintro rfl; rw [hp] at hsl; cases hsl
        rw [List.getElem?_append_left (by simpa using hlt), List.getElem?_set_ne hne, hsl]
      · rw [List.getElem?_eq_none (not_lt.1 hlt)] at hsl
        cases hsl
    rw [hget]
    exact ih j h

theorem LeadsTo.newNode {used : List Slot} {m c k : Nat} (h : LeadsTo used m (c / 2) k)
    (hsl : used[2 * k + c % 2]? = some .empty) : LeadsTo (openNode used (2 * k + c % 2)) (m + 1) c (used.length / 2) := by
  have hlt := (List.getElem?_eq_some_iff.1 hsl).1
  exact LeadsTo.next (h.grow hsl _) (by simp [openNode, List.getElem?_append, hlt])

/-- R132: a code goes in as if the node it opens had been there before. The leading bits `s` of the code end at an EMPTY slot. -/
theorem insertCode_through_openNode {n v l m e c k s : Nat} {used : List Slot} (hl : l = m + 1 + (e + 1)) (hs : c / 2 ^ (e + 1) = s)
    (hpath : LeadsTo used m (s / 2) k) (hsl : used[2 * k + s % 2]? = some .empty) (heven : 2 ∣ used.length)
    (hroom : used.length + 2 ≤ 2 * (n - 1)) :
    insertCode n v c l 0 (usedTrie n used) = insertCode n v c l 0 (usedTrie n (openNode used (2 * k + s % 2))) := by
  subst hs hl
  have hstem : c / 2 ^ (e + 1) / 2 = c / 2 ^ (e + 1 + 1) := by rw [Nat.pow_succ _ (e + 1), Nat.div_div_eq_div_mul]
  calc insertCode n v c (m + 1 + (e + 1)) 0 (usedTrie n used)
      = insertCode n v c (e + 2) k (usedTrie n used) := by
        rw [Nat.add_assoc, Nat.add_comm 1]
        exact insertCode_of_slotAfter (hstem ▸ hpath)
    _ = insertCode n v c (e + 1) (used.length / 2) (usedTrie n (openNode used (2 * k + c / 2 ^ (e + 1) % 2))) :=
        insertCode_openNode hsl heven hroom
    _ = insertCode n v c (m + 1 + (e + 1)) 0 (usedTrie n (openNode used (2 * k + c / 2 ^ (e + 1) % 2))) :=
        (insertCode_of_slotAfter (hpath.newNode hsl)).symm

/-! ## A complete subtree is two of half its size under a new node -/

theorem openNode_fst (used : List Slot) (p : Nat) : (openNode used p)[used.length]? = some .empty := by simp [openNode]

theorem openNode_snd (used : List Slot) (p : Nat) : (openNode used p)[used.length + 1]? = some .empty := by simp [openNode]

theorem plantSubtree_getElem?_of_ne {used : List Slot} {p i : Nat} {sl : Slot} (hi : used[i]? = some sl) (hne : p ≠ i) (h v : Nat) :
    (plantSubtree used p h v)[i]? = some sl := by
  have hlt := (List.getElem?_eq_some_iff.1 hi).1
  rw [plantSubtree, List.getElem?_append_left (by simpa using hlt), List.getElem?_set_ne hne, hi]

theorem plantSubtree_succ {used : List Slot} (heven : 2 ∣ used.length) (p h v : Nat) :
    plantSubtree used p (h + 1) v =
      plantSubtree (plantSubtree (openNode used p) used.length h v) (used.length + 1) h (v + 2 ^ h) := by
  have hpos := Nat.two_pow_pos h
  have hleft : (used.length + 2) / 2 = used.length / 2 + 1 := by omega
  have hright : (used.length + 2 + 2 * (2 ^ h - 1)) / 2 = used.length / 2 + 2 ^ h := by omega
  rw [plantSubtree, plantSubtree, length_plantSubtree, length_openNode, hright, plantSubtree, length_openNode, hleft]
  simp [openNode, subtreeSlots, subtreeRoot]

/-! ## Inserting a run -/

theorem insertFrom_append {n : Nat} {t t' : Trie} (v : Nat) (lens codes lens' codes' : List Nat) (hlen : lens.length = codes.length)
    (h : insertFrom n v lens codes t = .ok t') :
    insertFrom n v (lens ++ lens') (codes ++ codes') t = insertFrom n (v + lens.length) lens' codes' t' := by
  induction lens generalizing v codes t with
  | nil =>
    obtain rfl := List.length_eq_zero_iff.1 hlen.symm
    cases h
    rfl
  | cons l lens ih =>
    cases codes with
    | nil => cases hlen
    | cons c codes =>
      rw [List.cons_append, List.cons_append, insertFrom]
      rw [insertFrom] at h
      cases hc : insertCode n v c l 0 t with
      | error u => rw [hc] at h; cases h
      | ok u =>
        rw [hc] at h
        rw [List.length_cons, Nat.add_comm lens.length, ← Nat.add_assoc]
        exact ih _ _ (Nat.succ.inj hlen) h

/-- R132 for the `2 ^ h` codes of length `l` whose leading bits are `stem`, those of the symbols from `v` on. -/
def insertRun (n v l h stem : Nat) : Trie → Except Trie Trie :=
  insertFrom n v (List.replicate (2 ^ h) l) (List.range' (2 ^ h * stem) (2 ^ h))

theorem insertRun_zero (n v l stem : Nat) (t : Trie) : insertRun n v l 0 stem t = insertCode n v stem l 0 t := by
  rw [insertRun, Nat.pow_zero, Nat.one_mul, List.replicate_one, List.range'_one, insertFrom]
  cases insertCode n v stem l 0 t <;> rfl

/-- The first half of a run has the next bit 0, the second half the next bit 1. -/
theorem insertRun_succ {n v l h stem : Nat} {t t' : Trie} (hleft : insertRun n v l h (2 * stem) t = .ok t') :
    insertRun n v l (h + 1) stem t = insertRun n (v + 2 ^ h) l h (2 * stem + 1) t' := by
  have hlens : List.replicate (2 ^ (h + 1)) l = List.replicate (2 ^ h) l ++ List.replicate (2 ^ h) l := by
    rw [List.replicate_append_replicate, Nat.pow_succ, Nat.mul_two]
  have hcodes : List.range' (2 ^ (h + 1) * stem) (2 ^ (h + 1)) =
      List.range' (2 ^ h * (2 * stem)) (2 ^ h) ++ List.range' (2 ^ h * (2 * stem + 1)) (2 ^ h) := by
    rw [Nat.mul_succ, List.range'_append_1, ← Nat.mul_two, ← Nat.pow_succ, ← Nat.mul_assoc, ← Nat.pow_succ]
  rw [insertRun, hlens, hcodes, insertFrom_append v _ _ _ _ (by simp) hleft, List.length_replicate]
  rfl

/-- Two tables that the first code of a run makes equal are made equal by the run. -/
theorem insertRun_congr {n v l h stem : Nat} {t t' : Trie}
    (hfirst : insertCode n v (2 ^ h * stem) l 0 t = insertCode n v (2 ^ h * stem) l 0 t') :
    insertRun n v l h stem t = insertRun n v l h stem t' := by
  obtain ⟨w, hw⟩ := Nat.exists_eq_add_of_le' (Nat.two_pow_pos h)
  unfold insertRun
  generalize 2 ^ h * stem = c at hfirst ⊢
  rw [hw, List.replicate_succ, List.range'_succ, insertFrom, insertFrom, hfirst]

/-- R132: the codes of a run whose stem ends at an EMPTY slot become a complete subtree at that slot. -/
theorem insertRun_plantSubtree {n v l m h stem k : Nat} {used : List Slot} (hl : l = m + 1 + h) (hpath : LeadsTo used m (stem / 2) k)
    (hsl : used[2 * k + stem % 2]? = some .empty) (heven : 2 ∣ used.length)
    (hroom : used.length + 2 * (2 ^ h - 1) ≤ 2 * (n - 1)) :
    insertRun n v l h stem (usedTrie n used) = .ok (usedTrie n (plantSubtree used (2 * k + stem % 2) h v)) := by
  induction h generalizing v m stem k used with
  | zero =>
    subst hl
    rw [insertRun_zero, insertCode_of_slotAfter (e := 0) (by rwa [Nat.zero_add, Nat.pow_one]), insertCode_leaf hsl]
  | succ h ih =>
    have hpos := Nat.two_pow_pos h
    have hroot : 2 * (used.length / 2) = used.length := Nat.mul_div_cancel' heven
    have hdiv : (2 * stem + 1) / 2 = stem := by omega
    have hmod : (2 * stem + 1) % 2 = 1 := by omega
    have hcode : 2 ^ (h + 1) * stem / 2 ^ (h + 1) = stem := Nat.mul_div_cancel_left _ (Nat.two_pow_pos _)
    rw [Nat.pow_succ] at hroom
    rw [insertRun_congr (insertCode_through_openNode hl hcode hpath hsl heven (by omega)), plantSubtree_succ heven]
    have hopen := hpath.newNode hsl
    have hfst := openNode_fst used (2 * k + stem % 2)
    have hsnd := openNode_snd used (2 * k + stem % 2)
    have hlen := length_openNode used (2 * k + stem % 2)
    generalize openNode used (2 * k + stem % 2) = opened at hopen hfst hsnd hlen ⊢
    have hleft := ih (v := v) (m := m + 1) (stem := 2 * stem) (k := used.length / 2) (used := opened) (by omega)
      (by rwa [Nat.mul_div_cancel_left _ Nat.two_pos]) (by rwa [Nat.mul_mod_right, hroot]) (by omega) (by omega)
    rw [Nat.mul_mod_right, hroot, Nat.add_zero] at hleft
    have hright := ih (v := v + 2 ^ h) (m := m + 1) (stem := 2 * stem + 1) (k := used.length / 2)
      (used := plantSubtree opened used.length h v) (by omega) (by rw [hdiv]; exact hopen.grow hfst _)
      (by rw [hmod, hroot]; exact plantSubtree_getElem?_of_ne hsnd (by omega) h v)
      (by rw [length_plantSubtree]; omega) (by rw [length_plantSubtree]; omega)
    rw [insertRun_succ hleft, hright, hmod, hroot]

/-! ## Compiling a table run by run -/

/-- Where a run goes: its stem opens the nodes it still lacks, and its subtree hangs at the end; none where the way is taken or the
table of `n` symbols has no room. The last `m` bits of the stem are left, from the node `k` on. -/
def placeRun (n : Nat) (r : CodeRun) : Nat → Nat → List Slot → Option (List Slot)
  | 0, _, _ => none
  | m + 1, k, used =>
    let p := 2 * k + r.stem / 2 ^ m % 2
    match used[p]?, m with
    | some .empty, 0 =>
      if 2 ∣ used.length ∧ used.length + 2 * (2 ^ r.height - 1) ≤ 2 * (n - 1) then some (plantSubtree used p r.height r.first)
      else none
    | some .empty, m + 1 =>
      if 2 ∣ used.length ∧ used.length + 2 ≤ 2 * (n - 1) then placeRun n r (m + 1) (used.length / 2) (openNode used p) else none
    | some (.node j), m + 1 => placeRun n r (m + 1) j used
    | _, _ => none

theorem insertRun_of_placeRun {n l m m' k : Nat} {r : CodeRun} {used used' : List Slot} (hl : l = m' + m + r.height)
    (hpath : LeadsTo used m' (r.stem / 2 ^ m) k) (h : placeRun n r m k used = some used') :
    insertRun n r.first l r.height r.stem (usedTrie n used) = .ok (usedTrie n used') := by
  induction m generalizing m' k used with
  | zero => cases h
  | succ m ih =>
    have hstem : r.stem / 2 ^ (m + 1) = r.stem / 2 ^ m / 2 := by rw [Nat.pow_succ, Nat.div_div_eq_div_mul]
    rw [hstem] at hpath
    unfold placeRun at h
    dsimp only at h
    split at h
    case h_1 hsl =>
      obtain ⟨⟨heven, hroom⟩, hused⟩ := Option.ite_none_right_eq_some.1 h
      cases hused
      rw [Nat.pow_zero, Nat.div_one] at hpath hsl ⊢
      exact insertRun_plantSubtree hl hpath hsl heven hroom
    case h_2 m hsl =>
      obtain ⟨⟨heven, hroom⟩, hplaced⟩ := Option.ite_none_right_eq_some.1 h
      have hcode : 2 ^ r.height * r.stem / 2 ^ (m + r.height + 1) = r.stem / 2 ^ (m + 1) := by
        rw [Nat.add_right_comm m, Nat.pow_add _ (m + 1), Nat.mul_comm (2 ^ (m + 1)), Nat.mul_div_mul_left _ _ (Nat.two_pow_pos _)]
      rw [insertRun_congr (insertCode_through_openNode (by omega) hcode hpath hsl heven hroom)]
      exact ih (by omega) (hpath.newNode hsl) hplaced
    case h_3 m j hsl => exact ih (by omega) (hpath.next hsl) h
    case h_4 => cases h

/-- The runs placed one after the other, the first of them with the symbol `v`; none where a run does not follow on the one before. -/
def placeRuns (n : Nat) : Nat → List CodeRun → List Slot → Option (List Slot)
  | _, [], used => some used
  | v, r :: rs, used =>
    if r.first = v then (placeRun n r r.stemLen 0 used).bind (placeRuns n (v + 2 ^ r.height) rs) else none

/-- The lengths of the symbols of some runs. -/
def runLens (rs : List CodeRun) : List Nat := rs.flatMap fun r => List.replicate (2 ^ r.height) (r.stemLen + r.height)

/-- The codes of the symbols of some runs. -/
def runCodes (rs : List CodeRun) : List Nat := rs.flatMap fun r => List.range' (2 ^ r.height * r.stem) (2 ^ r.height)

theorem insertFrom_of_placeRuns {n v : Nat} {rs : List CodeRun} {used used' : List Slot} (h : placeRuns n v rs used = some used') :
    insertFrom n v (runLens rs) (runCodes rs) (usedTrie n used) = .ok (usedTrie n used') := by
  induction rs generalizing v used with
  | nil => cases h; rfl
  | cons r rs ih =>
    obtain ⟨rfl, hplaced⟩ := Option.ite_none_right_eq_some.1 h
    obtain ⟨next, hrun, hrest⟩ := Option.bind_eq_some_iff.1 hplaced
    have hroot : LeadsTo used 0 (r.stem / 2 ^ r.stemLen) 0 := rfl
    have hfirst := insertRun_of_placeRun (by rw [Nat.zero_add]) hroot hrun
    rw [runLens, runCodes, List.flatMap_cons, List.flatMap_cons,
      insertFrom_append _ _ _ _ _ (by simp) hfirst, List.length_replicate]
    exact ih hrest

/-- R130 to R132: a table whose runs fill it is compiled from their lengths and codes, with a node in every pair of slots. -/
theorem compileTable_of_placeRuns {n : Nat} {rs : List CodeRun} {slots : List Slot} (hn : 2 ≤ n)
    (h : placeRuns n 0 rs [.empty, .empty] = some slots) (hfull : slots.length = 2 * (n - 1)) :
    compileTable n (runLens rs) (runCodes rs) = .ok { slots := slots, nodes := n - 2 } := by
  have hused : usedTrie n slots = { slots := slots, nodes := n - 2 } := by
    simp [usedTrie, hfull, Nat.sub_sub]
  rw [compileTable, emptyTrie_eq_usedTrie hn, insertFrom_of_placeRuns h, hused]

/-! ## The two fixed tables -/

/-- R86: the fixed distance codes as runs, one for each value of their first bit. -/
def fixedDistRuns : List CodeRun := [⟨1, 0, 4, 0⟩, ⟨1, 1, 4, 16⟩]

/-- R85, R117: the nine runs of the fixed literal/length codes, in symbol order, are FIXED_LL_TRIE. -/
theorem placeRuns_fixedLitlen : placeRuns 288 0 (fixedLitlenRuns.map Prod.fst) [.empty, .empty] = some fixedLlTrie.toList := by
  decide +kernel

theorem placeRuns_fixedDist : placeRuns 32 0 fixedDistRuns [.empty, .empty] = some fixedDTrie.toList := by decide +kernel

/-- R113, R124: the runs have the fixed lengths, and their codes are the canonical ones. -/
theorem fixedLitlenRuns_canonical : runLens (fixedLitlenRuns.map Prod.fst) = fixedLlLens ∧
    buildCodes 15 fixedLlLens = some (runCodes (fixedLitlenRuns.map Prod.fst)) := by
  decide +kernel

theorem fixedDistRuns_canonical : runLens fixedDistRuns = fixedDLens ∧ buildCodes 15 fixedDLens = some (runCodes fixedDistRuns) := by
  decide +kernel

/-- Settles O17: the canonical codes of the fixed lengths fall into runs, and the runs placed in symbol order fill the fixed tables. -/
theorem fixedTablesAreCompiled : Obligations.FixedTablesAreCompiled := by
  obtain ⟨hlitlenLens, hlitlenCodes⟩ := fixedLitlenRuns_canonical
  obtain ⟨hdistLens, hdistCodes⟩ := fixedDistRuns_canonical
  refine ⟨⟨_, hlitlenCodes, ?_⟩, ⟨_, hdistCodes, ?_⟩⟩
  · rw [← hlitlenLens]
    exact compileTable_of_placeRuns (by decide) placeRuns_fixedLitlen Vector.length_toList
  · rw [← hdistLens]
    exact compileTable_of_placeRuns (by decide) placeRuns_fixedDist Vector.length_toList

end Sys2Proof.Machine
end

section
/-! SUPPORT. The canonical codes (spec R121 to R125): the codes up to a length take just the share of the code space that the Kraft sum
gives them, so every code fits its length, and a longer code starts past every shorter one. -/

namespace Sys2Proof.Machine

/-! ## The Kraft sum and the Kraft check -/

theorem kraftSum_eq_sum_used (maxLen : Nat) (lens : List Nat) :
    kraftSum maxLen lens = ((lens.filter fun l => decide (0 < l)).map fun l => 2 ^ (maxLen - l)).sum := by
  induction lens with
  | nil => rfl
  | cons l lens ih =>
    rw [kraftSum, ih]
    rcases Nat.eq_zero_or_pos l with rfl | hl
    · simp
    · simp [hl, hl.ne']

theorem kraftSum_filter_le (maxLen : Nat) (p : Nat → Bool) (lens : List Nat) :
    kraftSum maxLen (lens.filter p) ≤ kraftSum maxLen lens := by
  induction lens with
  | nil => exact le_rfl
  | cons l lens ih =>
    rw [List.filter_cons]
    split
    · exact Nat.add_le_add_left ih _
    · exact ih.trans (Nat.le_add_left _ _)

/-- The symbols of length `l + 1` add their share to that of the shorter ones. -/
theorem kraftSum_filter_succ (maxLen l : Nat) (lens : List Nat) :
    kraftSum maxLen (lens.filter (· ≤ l + 1)) =
      kraftSum maxLen (lens.filter (· ≤ l)) + 2 ^ (maxLen - (l + 1)) * lens.count (l + 1) := by
  induction lens with
  | nil => rfl
  | cons a lens ih =>
    rcases lt_trichotomy a (l + 1) with ha | rfl | ha
    · have hle : a ≤ l := Nat.le_of_lt_succ ha
      simp [kraftSum, hle, ha.le, ha.ne, ih, Nat.add_assoc]
    · simp [kraftSum, ih, Nat.mul_add, Nat.add_comm, Nat.add_assoc]
    · have hnle : ¬ a ≤ l := by omega
      simp [hnle, not_le.2 ha, ha.ne', ih]

theorem buildCodes_eq_none_iff (maxLen : Nat) (lens : List Nat) : buildCodes maxLen lens = none ↔ kraftOk maxLen lens = false := by
  simp [buildCodes]

theorem buildCodes_eq_some_iff (maxLen : Nat) (lens codes : List Nat) :
    buildCodes maxLen lens = some codes ↔ kraftSum maxLen lens ≤ 2 ^ maxLen ∧ (assignAll maxLen lens).1 = codes := by
  rw [buildCodes, Option.ite_none_right_eq_some, kraftOk, decide_eq_true_iff, Option.some_inj]

/-! ## The first code of each length -/

theorem blCountOf_pos (lens : List Nat) {l : Nat} (hl : 0 < l) : blCountOf lens l = lens.count l := if_neg hl.ne'

/-- R123: the codes up to length `l` take the share of the code space that the Kraft sum counts for their lengths. -/
theorem codesThrough_eq_kraftSum {maxLen l : Nat} (lens : List Nat) (hl : l ≤ maxLen) :
    2 ^ (maxLen - l) * (firstCode lens l + blCountOf lens l) = kraftSum maxLen (lens.filter (· ≤ l)) := by
  induction l with
  | zero =>
    have hused : (lens.filter (· ≤ 0)).filter (fun l => decide (0 < l)) = [] := by
      simp +contextual [Nat.pos_iff_ne_zero]
    rw [kraftSum_eq_sum_used, hused]
    rfl
  | succ l ih =>
    have hpow : 2 ^ (maxLen - l) = 2 ^ (maxLen - (l + 1)) * 2 := by rw [← Nat.pow_succ]; congr 1; omega
    rw [kraftSum_filter_succ, ← ih (Nat.le_of_succ_le hl), hpow, firstCode, blCountOf_pos lens l.succ_pos, Nat.mul_add,
      Nat.mul_assoc]

theorem firstCode_add_count_le {maxLen l : Nat} {lens : List Nat} (hkraft : kraftSum maxLen lens ≤ 2 ^ maxLen) (hpos : 0 < l)
    (hl : l ≤ maxLen) : firstCode lens l + lens.count l ≤ 2 ^ l := by
  refine Nat.le_of_mul_le_mul_left ?_ (Nat.two_pow_pos (maxLen - l))
  calc 2 ^ (maxLen - l) * (firstCode lens l + lens.count l)
      = kraftSum maxLen (lens.filter (· ≤ l)) := by rw [← codesThrough_eq_kraftSum lens hl, blCountOf_pos lens hpos]
    _ ≤ 2 ^ maxLen := (kraftSum_filter_le _ _ _).trans hkraft
    _ = 2 ^ (maxLen - l) * 2 ^ l := by rw [← Nat.pow_add, Nat.sub_add_cancel hl]

/-- R123: the first code `d + 1` bits longer comes after every extension of the codes of length `l`. -/
theorem codesThrough_le_firstCode (lens : List Nat) (l d : Nat) :
    (firstCode lens l + blCountOf lens l) * 2 ^ (d + 1) ≤ firstCode lens (l + d + 1) := by
  induction d with
  | zero => exact (Nat.mul_comm _ 2).le
  | succ d ih =>
    rw [Nat.pow_succ, ← Nat.mul_assoc, Nat.mul_comm _ 2]
    exact Nat.mul_le_mul_left 2 (ih.trans (Nat.le_add_right _ _))

/-! ## The codes in symbol order -/

/-- R124: the rank of a symbol is below the number of symbols of its length before any later symbol. -/
theorem count_take_lt_count_take {lens : List Nat} {s s' l : Nat} (hs : lens[s]? = some l) (hlt : s < s') :
    (lens.take s).count l < (lens.take s').count l := by
  have hnext : (lens.take (s + 1)).count l = (lens.take s).count l + 1 := by simp [List.take_add_one, hs]
  have hle : (lens.take (s + 1)).count l ≤ (lens.take s').count l := (List.take_sublist_take_left hlt).count_le l
  omega

@[simp] theorem length_assignCodes (next lens : List Nat) : (assignCodes next lens).1.length = lens.length := by
  induction lens generalizing next with
  | nil => rfl
  | cons l lens ih =>
    rw [assignCodes]
    split <;> simp [ih]

/-- R124: a symbol gets NEXT_CODE of its length, moved on by the symbols of that length before it. -/
theorem getElem?_assignCodes {next lens : List Nat} (hnext : ∀ l ∈ lens, l < next.length) {s l : Nat} (hs : lens[s]? = some l)
    (hl : 0 < l) : (assignCodes next lens).1[s]? = some (next.getD l 0 + (lens.take s).count l) := by
  induction lens generalizing next s with
  | nil => cases hs
  | cons a lens ih =>
    obtain ⟨ha, hlens⟩ := List.forall_mem_cons.1 hnext
    rw [assignCodes]
    cases s with
    | zero =>
      obtain rfl : a = l := by simpa using hs
      simp [hl.ne']
    | succ s =>
      rw [List.getElem?_cons_succ] at hs
      by_cases hzero : a = 0
      · simp [hzero, ih hlens hs, hl.ne]
      · rw [if_neg hzero, List.getElem?_cons_succ, ih (by simpa using hlens) hs, List.getD_eq_getElem?_getD,
          List.getD_eq_getElem?_getD, List.take_succ_cons]
        by_cases hal : a = l
        · subst hal
          simp [ha, Nat.add_assoc, Nat.add_comm 1]
        · simp [hal]

theorem getElem?_assignAll {maxLen : Nat} {lens : List Nat} (hlens : ∀ l ∈ lens, l ≤ maxLen) {s l : Nat} (hs : lens[s]? = some l)
    (hl : 0 < l) : (assignAll maxLen lens).1[s]? = some (firstCode lens l + (lens.take s).count l) := by
  have hle : l ≤ maxLen := hlens l (List.mem_of_getElem? hs)
  rw [assignAll, getElem?_assignCodes (by simpa [Nat.lt_succ_iff] using hlens) hs hl]
  simp [List.getD_eq_getElem?_getD, Nat.lt_succ_iff.2 hle]

/-- R124: a code lies among the codes of its length. -/
theorem code_lt_firstCode_add_count {lens : List Nat} {s l : Nat} (hs : lens[s]? = some l) :
    firstCode lens l + (lens.take s).count l < firstCode lens l + lens.count l := by
  have hrank := count_take_lt_count_take hs (List.getElem?_eq_some_iff.1 hs).1
  rw [List.take_length] at hrank
  exact Nat.add_lt_add_left hrank _

/-! ## One code at the beginning of another -/

theorem eq_of_bitsMsb_eq {n c c' : Nat} (hc : c < 2 ^ n) (hc' : c' < 2 ^ n) (h : bitsMsb n c = bitsMsb n c') : c = c' := by
  have hbits := List.map_inj_left.1 (List.reverse_inj.1 h)
  refine Nat.eq_of_testBit_eq fun k => ?_
  by_cases hk : k < n
  · exact hbits k (List.mem_range.2 hk)
  · have hpow : 2 ^ n ≤ 2 ^ k := Nat.pow_le_pow_right Nat.two_pos (not_lt.1 hk)
    rw [Nat.testBit_lt_two_pow (hc.trans_le hpow), Nat.testBit_lt_two_pow (hc'.trans_le hpow)]

/-- The code of which another is the beginning is that code followed by its own low bits. -/
theorem div_two_pow_of_bitsMsb_prefix {n d c c' : Nat} (hc : c < 2 ^ n) (hc' : c' < 2 ^ (n + d))
    (h : bitsMsb n c <+: bitsMsb (n + d) c') : c' / 2 ^ d = c := by
  have hsplit : bitsMsb (n + d) c' = bitsMsb n (c' / 2 ^ d) ++ bitsMsb d (c' % 2 ^ d) := by
    rw [← bitsMsb_append n _ (Nat.mod_lt _ (Nat.two_pow_pos d)), Nat.div_add_mod]
  rw [hsplit] at h
  have hlead : bitsMsb n c <+: bitsMsb n (c' / 2 ^ d) :=
    List.prefix_of_prefix_length_le h (List.prefix_append _ _) (by simp)
  refine eq_of_bitsMsb_eq (Nat.div_lt_of_lt_mul ?_) hc (hlead.eq_of_length (by simp)).symm
  rwa [← Nat.pow_add, Nat.add_comm d]

/-! ## The obligations -/

/-- Settles O10: `kraftSum` is the rule's sum. -/
theorem kraftCheck : Obligations.KraftCheck := by
  intro maxLen lens
  rw [buildCodes_eq_none_iff, kraftOk, decide_eq_false_iff_not, not_le, kraftSum_eq_sum_used]

/-- Settles O11: the Kraft check comes before every write. -/
theorem oversubscribedSetBuildsNothing : Obligations.OversubscribedSetBuildsNothing := by
  intro n lenW codeW maxLen h sc hnone
  have hkraft := (buildCodes_eq_none_iff maxLen (lensOf h)).1 hnone
  simp [buildTable, hkraft]

/-- Settles O12: the assignment counts up from the first code, and the Kraft check bounds where each length ends. -/
theorem codesAreFirstCodePlusRank : Obligations.CodesAreFirstCodePlusRank := by
  intro maxLen lens codes hbuild hlens
  obtain ⟨hkraft, rfl⟩ := (buildCodes_eq_some_iff maxLen lens codes).1 hbuild
  refine ⟨length_assignCodes _ _, fun s l hs hl => ⟨getElem?_assignAll hlens hs hl, ?_⟩,
    fun l hpos hl => firstCode_add_count_le hkraft hpos hl, rfl, fun l hl => ?_⟩
  · exact (code_lt_firstCode_add_count hs).trans_le
      (firstCode_add_count_le hkraft hl (hlens l (List.mem_of_getElem? hs)))
  · rw [firstCode, blCountOf_pos lens hl]

/-- Settles O13: codes of one length differ by their ranks, and the leading bits of a longer code are past every shorter code. -/
theorem codesArePrefixFree : Obligations.CodesArePrefixFree := by
  intro maxLen lens codes s s' l l' c c' hbuild hlens hne hs hs' hl hl' hc hc' hprefix
  obtain ⟨-, hcodes, -⟩ := codesAreFirstCodePlusRank maxLen lens codes hbuild hlens
  obtain ⟨hcode, hfits⟩ := hcodes s l hs hl
  obtain ⟨hcode', hfits'⟩ := hcodes s' l' hs' hl'
  obtain rfl := Option.some.inj (hc.symm.trans hcode)
  obtain rfl := Option.some.inj (hc'.symm.trans hcode')
  obtain ⟨d, rfl⟩ := Nat.exists_eq_add_of_le (by simpa using hprefix.length_le)
  have hlead := div_two_pow_of_bitsMsb_prefix hfits hfits' hprefix
  cases d with
  | zero =>
    have hrank : (lens.take s').count l = (lens.take s).count l := by simpa using hlead
    rcases Nat.lt_or_gt_of_ne hne with hlt | hlt
    · exact (count_take_lt_count_take hs hlt).ne' hrank
    · exact (count_take_lt_count_take hs' hlt).ne hrank
  | succ d =>
    refine (code_lt_firstCode_add_count hs).not_ge ?_
    rw [← hlead, Nat.le_div_iff_mul_le (Nat.two_pow_pos _), ← blCountOf_pos lens hl]
    exact (codesThrough_le_firstCode lens l d).trans (Nat.le_add_right _ _)

end Sys2Proof.Machine
end

section
/-! SUPPORT. Compiling a table code by code (spec R132 to R134, R136): a code is inserted by nodes opened along its bits and one leaf at
their end, so a table holds the leaves of the codes inserted and no others, and a code that cannot be inserted either meets another code
or finds every node in use. -/

namespace Sys2Proof.Machine

/-! ## The slot that bits lead to -/

/-- R140: the slot that bits lead to from the root. -/
def Trie.slotAt (t : Trie) (bs : List Bool) : Option Slot := slotAfter t.slots (.node 0) bs

@[simp] theorem slotAt_nil (t : Trie) : t.slotAt [] = some (.node 0) := rfl

theorem slotAt_append (t : Trie) (as bs : List Bool) : t.slotAt (as ++ bs) = (t.slotAt as).bind (slotAfter t.slots · bs) :=
  slotAfter_append t.slots _ as bs

theorem slotAfter_singleton_eq_some_iff {t : List Slot} {sl x : Slot} {b : Bool} :
    slotAfter t sl [b] = some x ↔ ∃ k, sl = .node k ∧ t.getD (2 * k + b.toNat) .empty = x := by
  cases sl <;> simp [slotAfter]

theorem slotAt_snoc_eq_some_iff {t : Trie} {bs : List Bool} {b : Bool} {x : Slot} :
    t.slotAt (bs ++ [b]) = some x ↔ ∃ k, t.slotAt bs = some (.node k) ∧ t.slots.getD (2 * k + b.toNat) .empty = x := by
  simp [slotAt_append, Option.bind_eq_some_iff, slotAfter_singleton_eq_some_iff]

/-- Bits lead past an internal node only. -/
theorem slotAfter_empty_eq_some_iff {t : List Slot} {bs : List Bool} {x : Slot} :
    slotAfter t .empty bs = some x ↔ bs = [] ∧ x = .empty := by
  cases bs <;> simp [slotAfter, eq_comm]

theorem slotAfter_leaf_eq_some_iff {t : List Slot} {v : Nat} {bs : List Bool} {x : Slot} :
    slotAfter t (.leaf v) bs = some x ↔ bs = [] ∧ x = .leaf v := by
  cases bs <;> simp [slotAfter, eq_comm]

/-- R130, R136 (a): bits lead to allocated nodes only. -/
theorem Trie.Sound.node_le {n : Nat} {t : Trie} (ht : t.Sound n) {bs : List Bool} {k : Nat}
    (h : t.slotAt bs = some (.node k)) : k ≤ t.nodes := by
  rcases List.eq_nil_or_concat' bs with rfl | ⟨as, b, rfl⟩
  · obtain rfl : 0 = k := by simpa using h
    exact Nat.zero_le _
  · obtain ⟨j, -, hslot⟩ := slotAt_snoc_eq_some_iff.1 h
    have hget : t.slots[2 * j + b.toNat]? = some (.node k) := by
      rw [List.getD_eq_getElem?_getD] at hslot
      cases hget : t.slots[2 * j + b.toNat]? with
      | none => rw [hget] at hslot; cases hslot
      | some sl => rw [hget] at hslot; exact congrArg some hslot
    have hok := (trieOk_iff.1 ht.ok).2 _ (List.mem_of_getElem? hget)
    simp only [slotOk, Bool.and_eq_true, decide_eq_true_eq] at hok
    exact hok.2

/-! ## Writing an EMPTY slot -/

/-- A table under construction is a tree: bits lead to each node in one way, and the nodes not yet allocated are EMPTY (R131, R132). -/
structure Trie.Tree (n : Nat) (t : Trie) : Prop where
  sound : t.Sound n
  unique : ∀ as bs k, t.slotAt as = some (.node k) → t.slotAt bs = some (.node k) → as = bs
  fresh : ∀ p, 2 * (t.nodes + 1) ≤ p → t.slots.getD p .empty = .empty

/-- The EMPTY slot that some bits lead to has been written; EMPTY slots aside, no other bits lead elsewhere than before. -/
structure Writes (t u : Trie) (bs : List Bool) (sl : Slot) : Prop where
  before : t.slotAt bs = some .empty
  after : u.slotAt bs = some sl
  elsewhere : ∀ as x, as ≠ bs → x ≠ .empty → (u.slotAt as = some x ↔ t.slotAt as = some x)

/-- R132: the table with the slot for bit `b` of node `k` written and `m` nodes allocated. -/
def Trie.write (t : Trie) (k : Nat) (b : Bool) (sl : Slot) (m : Nat) : Trie := { slots := t.slots.set (2 * k + b.toNat) sl, nodes := m }

theorem getD_write_of_ne {t : Trie} {k p : Nat} {b : Bool} (h : 2 * k + b.toNat ≠ p) (sl : Slot) (m : Nat) :
    (t.write k b sl m).slots.getD p .empty = t.slots.getD p .empty := by
  simp only [Trie.write, List.getD_eq_getElem?_getD, List.getElem?_set_ne h]

theorem two_mul_add_toNat_inj {k j : Nat} {b d : Bool} : 2 * k + b.toNat = 2 * j + d.toNat ↔ k = j ∧ b = d := by
  cases b <;> cases d <;> simp <;> omega

section
variable {n k m : Nat} {t : Trie} {pre : List Bool} {b : Bool} {sl : Slot}

/-- Bits that do not begin with the way to the slot written lead where they led before. -/
theorem slotAt_write_of_not_prefix (ht : t.Tree n) (hk : t.slotAt pre = some (.node k)) {bs : List Bool} (hbs : ¬ pre ++ [b] <+: bs) :
    (t.write k b sl m).slotAt bs = t.slotAt bs := by
  induction bs using List.reverseRecOn with
  | nil => rfl
  | append_singleton bs d ih =>
    refine Option.ext fun x => ?_
    rw [slotAt_snoc_eq_some_iff, slotAt_snoc_eq_some_iff, ih fun h => hbs (h.trans (List.prefix_append _ _))]
    refine exists_congr fun j => and_congr_right fun hj => ?_
    have hne : 2 * k + b.toNat ≠ 2 * j + d.toNat := by
      rw [Ne, two_mul_add_toNat_inj]
      rintro ⟨rfl, rfl⟩
      exact hbs (ht.unique _ _ _ hk hj ▸ List.prefix_rfl)
    rw [getD_write_of_ne hne]

theorem Trie.Tree.slot_lt (hn : 2 ≤ n) (ht : t.Tree n) (hk : t.slotAt pre = some (.node k)) (b : Bool) :
    2 * k + b.toNat < 2 * (t.nodes + 1) ∧ 2 * k + b.toNat < t.slots.length := by
  have hle := ht.sound.node_le hk
  have hnodes := (trieOk_iff.1 ht.sound.ok).1
  have hb := b.toNat_le
  rw [ht.sound.length]
  omega

theorem Trie.Tree.fresh_write (hn : 2 ≤ n) (ht : t.Tree n) (hk : t.slotAt pre = some (.node k)) {p : Nat}
    (hp : 2 * (t.nodes + 1) ≤ p) : (t.write k b sl m).slots.getD p .empty = .empty := by
  rw [getD_write_of_ne ((ht.slot_lt hn hk b).1.trans_le hp).ne, ht.fresh p hp]

/-- The slot that is written leads on to EMPTY slots at most. -/
theorem Trie.Tree.writes (hn : 2 ≤ n) (ht : t.Tree n) (hk : t.slotAt pre = some (.node k))
    (hempty : t.slots.getD (2 * k + b.toNat) .empty = .empty)
    (hsl : ∀ bs x, slotAfter (t.write k b sl m).slots sl bs = some x → x ≠ .empty → bs = []) :
    Writes t (t.write k b sl m) (pre ++ [b]) sl := by
  have hbefore : t.slotAt (pre ++ [b]) = some .empty := slotAt_snoc_eq_some_iff.2 ⟨k, hk, hempty⟩
  have hpre : ¬ pre ++ [b] <+: pre := fun h => by simpa using h.length_le
  have hafter : (t.write k b sl m).slotAt (pre ++ [b]) = some sl := by
    refine slotAt_snoc_eq_some_iff.2 ⟨k, (slotAt_write_of_not_prefix ht hk hpre).trans hk, ?_⟩
    rw [Trie.write, List.getD_eq_getElem?_getD, List.getElem?_set_self (ht.slot_lt hn hk b).2, Option.getD_some]
  refine ⟨hbefore, hafter, fun as x hne hx => ?_⟩
  by_cases has : pre ++ [b] <+: as
  · obtain ⟨rest, rfl⟩ := has
    have hrest : rest ≠ [] := by simpa using hne
    rw [slotAt_append _ (pre ++ [b]), slotAt_append _ (pre ++ [b]), hbefore, hafter, Option.bind_some, Option.bind_some]
    exact iff_of_false (fun h => hrest (hsl rest x h hx)) fun h => hx (slotAfter_empty_eq_some_iff.1 h).2
  · rw [slotAt_write_of_not_prefix ht hk has]

/-- Bits still lead to each node in one way, where a node that was written is a new one. -/
theorem Writes.unique {u : Trie} {bs : List Bool} (hw : Writes t u bs sl) (ht : t.Tree n) (hnew : ∀ j, sl = .node j → t.nodes < j)
    (as as' : List Bool) (j : Nat) (h : u.slotAt as = some (.node j)) (h' : u.slotAt as' = some (.node j)) : as = as' := by
  have old {as : List Bool} (hne : as ≠ bs) (h : u.slotAt as = some (.node j)) : t.slotAt as = some (.node j) :=
    (hw.elsewhere as _ hne (by simp)).1 h
  have new {as : List Bool} (hne : as ≠ bs) (h : u.slotAt as = some (.node j)) (h' : u.slotAt bs = some (.node j)) : False :=
    (hnew j (Option.some.inj (hw.after.symm.trans h'))).not_ge (ht.sound.node_le (old hne h))
  by_cases has : as = bs <;> by_cases has' : as' = bs
  · rw [has, has']
  · exact (new has' h' (has ▸ h)).elim
  · exact (new has h (has' ▸ h')).elim
  · exact ht.unique _ _ j (old has h) (old has' h')

theorem Trie.Tree.sound_write (ht : t.Tree n) (hm : t.nodes ≤ m) (hroom : m ≤ n - 2) (hok : slotOk n m sl = true) :
    (t.write k b sl m).Sound n :=
  ⟨by simp [Trie.write, ht.sound.length], trieOk_set ht.sound.ok hm hroom hok _⟩

/-- R132: the last bit of a code puts a leaf into its EMPTY slot. -/
theorem Trie.Tree.write_leaf {v : Nat} (hn : 2 ≤ n) (hv : v < n) (ht : t.Tree n) (hk : t.slotAt pre = some (.node k))
    (hempty : t.slots.getD (2 * k + b.toNat) .empty = .empty) :
    Writes t (t.write k b (.leaf v) t.nodes) (pre ++ [b]) (.leaf v) ∧ (t.write k b (.leaf v) t.nodes).Tree n := by
  have hw : Writes t (t.write k b (.leaf v) t.nodes) (pre ++ [b]) (.leaf v) :=
    ht.writes hn hk hempty fun bs x h _ => (slotAfter_leaf_eq_some_iff.1 h).1
  have hsound := ht.sound_write (k := k) (b := b) (sl := .leaf v) le_rfl (trieOk_iff.1 ht.sound.ok).1 (by simp [slotOk, hv])
  exact ⟨hw, hsound, hw.unique ht (by simp), fun p hp => ht.fresh_write hn hk hp⟩

/-- R132: an EMPTY slot on the way of a code is given a new node. -/
theorem Trie.Tree.write_node (hn : 2 ≤ n) (ht : t.Tree n) (hk : t.slotAt pre = some (.node k))
    (hempty : t.slots.getD (2 * k + b.toNat) .empty = .empty) (hroom : t.nodes + 1 ≤ n - 2) :
    Writes t (t.write k b (.node (t.nodes + 1)) (t.nodes + 1)) (pre ++ [b]) (.node (t.nodes + 1)) ∧
      (t.write k b (.node (t.nodes + 1)) (t.nodes + 1)).Tree n := by
  have hw : Writes t (t.write k b (.node (t.nodes + 1)) (t.nodes + 1)) (pre ++ [b]) (.node (t.nodes + 1)) := by
    refine ht.writes hn hk hempty fun bs x h hx => ?_
    cases bs with
    | nil => rfl
    | cons d bs =>
      rw [slotAfter, ht.fresh_write hn hk (Nat.le_add_right _ _)] at h
      exact (hx (slotAfter_empty_eq_some_iff.1 h).2).elim
  have hsound := ht.sound_write (k := k) (b := b) (sl := .node (t.nodes + 1)) (Nat.le_succ _) hroom (by simp [slotOk])
  refine ⟨hw, hsound, hw.unique ht (by rintro j ⟨⟩; exact Nat.lt_succ_self _), fun p hp => ?_⟩
  exact ht.fresh_write hn hk ((Nat.mul_le_mul_left 2 (Nat.le_succ _)).trans hp)

end

/-! ## Inserting a code -/

/-- The table `u` is `t` with nodes opened along the way of a code, short of its end, and nothing else written. -/
structure Opens (n : Nat) (t u : Trie) (code : List Bool) : Prop where
  tree : u.Tree n
  leaf_iff : ∀ bs v, u.slotAt bs = some (.leaf v) ↔ t.slotAt bs = some (.leaf v)
  node_of_node : ∀ bs k, u.slotAt bs = some (.node k) → (∃ j, t.slotAt bs = some (.node j)) ∨ bs <+: code ∧ bs ≠ code

theorem Opens.refl {n : Nat} {t : Trie} (ht : t.Tree n) (code : List Bool) : Opens n t t code :=
  ⟨ht, fun _ _ => Iff.rfl, fun _ k h => .inl ⟨k, h⟩⟩

theorem Opens.write_node {n k : Nat} {t u w : Trie} {code pre : List Bool} (hu : Opens n t u code) (hw : Writes u w pre (.node k))
    (hwt : w.Tree n) (hpre : pre <+: code) (hne : pre ≠ code) : Opens n t w code := by
  refine ⟨hwt, fun bs v => ?_, fun bs j h => ?_⟩
  · by_cases hbs : bs = pre
    · subst hbs
      rw [← hu.leaf_iff, hw.before, hw.after]
      simp
    · rw [hw.elsewhere bs _ hbs (by simp), hu.leaf_iff]
  · by_cases hbs : bs = pre
    · exact .inr (hbs ▸ ⟨hpre, hne⟩)
    · exact hu.node_of_node bs j ((hw.elsewhere bs _ hbs (by simp)).1 h)

/-- R132 to R134: what the insertion of a symbol's code into the table `t` can come to. -/
inductive InsertOutcome (n v : Nat) (t : Trie) (code : List Bool) : Except Trie Trie → Prop
  /-- R132: the code's last bit has its leaf. -/
  | placed {u w : Trie} (hu : Opens n t u code) (hw : Writes u w code (.leaf v)) (hwt : w.Tree n) : InsertOutcome n v t code (.ok w)
  /-- R134: the code goes on past an EMPTY slot, and every node is in use. -/
  | noNode {u : Trie} {pre : List Bool} (hu : Opens n t u code) (hpre : pre <+: code) (hne : pre ≠ code)
      (hslot : u.slotAt pre = some .empty) (hfull : u.nodes = n - 2) : InsertOutcome n v t code (.error u)
  /-- R133: a leaf on the way, or at the end of it. -/
  | leafMet {u : Trie} {pre : List Bool} {w : Nat} (hu : Opens n t u code) (hpre : pre <+: code)
      (hslot : u.slotAt pre = some (.leaf w)) : InsertOutcome n v t code (.error u)
  /-- R133: a node at the end of the way. -/
  | nodeMet {u : Trie} {k : Nat} (hu : Opens n t u code) (hslot : u.slotAt code = some (.node k)) : InsertOutcome n v t code (.error u)

/-- The walk at the node `k`, the bits `pre` of the code behind it and its last `m + 1` bits ahead. -/
theorem insertCode_outcome {n v c m k : Nat} {t u : Trie} {pre : List Bool} (hn : 2 ≤ n) (hv : v < n)
    (hu : Opens n t u (pre ++ bitsMsb (m + 1) c)) (hk : u.slotAt pre = some (.node k)) :
    InsertOutcome n v t (pre ++ bitsMsb (m + 1) c) (insertCode n v c (m + 1) k u) := by
  induction m generalizing k u pre with
  | zero =>
    have hcode : bitsMsb (0 + 1) c = [c.testBit 0] := bitsMsb_succ 0 c
    rw [hcode] at hu ⊢
    unfold insertCode
    dsimp only
    rw [Nat.shiftRight_eq_div_pow, ← Nat.toNat_testBit]
    cases hsl : u.slots.getD (2 * k + (c.testBit 0).toNat) .empty with
    | empty =>
      obtain ⟨hw, hwt⟩ := hu.tree.write_leaf hn hv hk hsl
      exact .placed hu hw hwt
    | leaf w => exact .leafMet hu List.prefix_rfl (slotAt_snoc_eq_some_iff.2 ⟨k, hk, hsl⟩)
    | node j => exact .nodeMet hu (slotAt_snoc_eq_some_iff.2 ⟨k, hk, hsl⟩)
  | succ m ih =>
    have hcode : pre ++ bitsMsb (m + 1 + 1) c = pre ++ [c.testBit (m + 1)] ++ bitsMsb (m + 1) c := by
      rw [bitsMsb_succ (m + 1), List.append_assoc, List.singleton_append]
    have hpre : pre ++ [c.testBit (m + 1)] <+: pre ++ [c.testBit (m + 1)] ++ bitsMsb (m + 1) c := List.prefix_append _ _
    have hne : pre ++ [c.testBit (m + 1)] ≠ pre ++ [c.testBit (m + 1)] ++ bitsMsb (m + 1) c := by simp [bitsMsb_succ]
    rw [hcode] at hu ⊢
    unfold insertCode
    dsimp only
    rw [Nat.shiftRight_eq_div_pow, ← Nat.toNat_testBit]
    cases hsl : u.slots.getD (2 * k + (c.testBit (m + 1)).toNat) .empty with
    | empty =>
      dsimp only
      split
      next hfull =>
        have hnodes := (trieOk_iff.1 hu.tree.sound.ok).1
        exact .noNode hu hpre hne (slotAt_snoc_eq_some_iff.2 ⟨k, hk, hsl⟩) (by omega)
      next hroom =>
        obtain ⟨hw, hwt⟩ := hu.tree.write_node hn hk hsl (not_lt.1 hroom)
        exact ih (hu.write_node hw hwt hpre hne) hw.after
    | leaf w => exact .leafMet hu hpre (slotAt_snoc_eq_some_iff.2 ⟨k, hk, hsl⟩)
    | node j => exact ih hu (slotAt_snoc_eq_some_iff.2 ⟨k, hk, hsl⟩)

theorem insertCode_outcome_root {n v c l : Nat} {t : Trie} (hn : 2 ≤ n) (hv : v < n) (ht : t.Tree n) (hl : 0 < l) :
    InsertOutcome n v t (bitsMsb l c) (insertCode n v c l 0 t) := by
  obtain ⟨m, rfl⟩ := Nat.exists_eq_add_one.2 hl
  exact insertCode_outcome (pre := []) hn hv (Opens.refl ht _) rfl

/-! ## Tables between two codes -/

/-- A table between two codes: a tree in which every node but the root is on the way to a leaf. -/
structure Trie.Grown (n : Nat) (t : Trie) : Prop where
  tree : t.Tree n
  live : ∀ bs k, t.slotAt bs = some (.node k) → bs = [] ∨ ∃ code v, bs <+: code ∧ t.slotAt code = some (.leaf v)

/-- R132: a code inserted adds its leaf and no other. -/
theorem Trie.Grown.insertCode_ok {n v c l : Nat} {t u : Trie} (hn : 2 ≤ n) (hv : v < n) (ht : t.Grown n)
    (h : insertCode n v c l 0 t = .ok u) :
    u.Grown n ∧ ∀ bs w, u.slotAt bs = some (.leaf w) ↔ (w = v ∧ 0 < l ∧ bs = bitsMsb l c) ∨ t.slotAt bs = some (.leaf w) := by
  rcases Nat.eq_zero_or_pos l with rfl | hl
  · cases h
    exact ⟨ht, by simp⟩
  · have hout := insertCode_outcome_root (c := c) hn hv ht.tree hl
    rw [h] at hout
    cases hout with
    | placed ho hw hwt =>
      have hleaf (bs : List Bool) (w : Nat) :
          u.slotAt bs = some (.leaf w) ↔ (w = v ∧ 0 < l ∧ bs = bitsMsb l c) ∨ t.slotAt bs = some (.leaf w) := by
        rw [← ho.leaf_iff]
        by_cases hbs : bs = bitsMsb l c
        · subst hbs
          simp [hw.before, hw.after, hl, eq_comm]
        · simp [hw.elsewhere bs _ hbs, hbs]
      refine ⟨⟨hwt, fun bs k hk => ?_⟩, hleaf⟩
      have hbs : bs ≠ bitsMsb l c := by rintro rfl; cases hw.after.symm.trans hk
      rcases ho.node_of_node bs k ((hw.elsewhere bs _ hbs (by simp)).1 hk) with ⟨j, hj⟩ | ⟨hpre, -⟩
      · exact (ht.live bs j hj).imp_right fun ⟨code, w, hpre, hcode⟩ => ⟨code, w, hpre, (hleaf code w).2 (.inr hcode)⟩
      · exact .inr ⟨_, v, hpre, hw.after⟩

/-- R121, R124: the bits of the code of symbol `v`, one that is used. -/
def HasCode (lens codes : List Nat) (v : Nat) (bs : List Bool) : Prop :=
  ∃ l c, lens[v]? = some l ∧ codes[v]? = some c ∧ 0 < l ∧ bs = bitsMsb l c

theorem hasCode_cons_zero {l c : Nat} {lens codes : List Nat} {bs : List Bool} :
    HasCode (l :: lens) (c :: codes) 0 bs ↔ 0 < l ∧ bs = bitsMsb l c := by
  simp [HasCode]

theorem hasCode_cons_succ {l c v : Nat} {lens codes : List Nat} {bs : List Bool} :
    HasCode (l :: lens) (c :: codes) (v + 1) bs ↔ HasCode lens codes v bs := Iff.rfl

theorem hasCode_take {lens codes : List Nat} {i v : Nat} {bs : List Bool} :
    HasCode (lens.take i) (codes.take i) v bs ↔ v < i ∧ HasCode lens codes v bs := by
  by_cases hv : v < i <;> simp [HasCode, hv]

/-- R132: symbols inserted from `v` on add the leaves of their codes and no others. -/
theorem Trie.Grown.insertFrom_ok {n v : Nat} {lens codes : List Nat} {t u : Trie} (hn : 2 ≤ n) (hv : v + lens.length ≤ n)
    (ht : t.Grown n) (h : insertFrom n v lens codes t = .ok u) :
    u.Grown n ∧
      ∀ bs w, u.slotAt bs = some (.leaf w) ↔ (∃ i, w = v + i ∧ HasCode lens codes i bs) ∨ t.slotAt bs = some (.leaf w) := by
  induction lens generalizing v codes t with
  | nil =>
    cases h
    exact ⟨ht, by simp [HasCode]⟩
  | cons l lens ih =>
    cases codes with
    | nil =>
      cases h
      exact ⟨ht, by simp [HasCode]⟩
    | cons c codes =>
      rw [List.length_cons] at hv
      rw [insertFrom] at h
      split at h
      next t' hcode =>
        obtain ⟨ht', hleaf'⟩ := ht.insertCode_ok hn (by omega) hcode
        obtain ⟨hu, hleaf⟩ := ih (by omega) ht' h
        refine ⟨hu, fun bs w => ?_⟩
        have hsplit : (∃ i, w = v + i ∧ HasCode (l :: lens) (c :: codes) i bs) ↔
            (w = v ∧ 0 < l ∧ bs = bitsMsb l c) ∨ ∃ i, w = v + 1 + i ∧ HasCode lens codes i bs := by
          rw [← Nat.or_exists_add_one]
          simp only [hasCode_cons_zero, hasCode_cons_succ, Nat.add_zero, Nat.add_assoc, Nat.add_comm 1]
        rw [hleaf, hleaf', hsplit, ← or_assoc, or_comm (b := w = v ∧ _)]
      next => cases h

theorem emptyTrie_getD (n p : Nat) : (emptyTrie n).slots.getD p .empty = .empty := by
  rw [emptyTrie, List.getD_eq_getElem?_getD, List.getElem?_replicate]
  split <;> rfl

theorem slotAt_emptyTrie {n : Nat} {bs : List Bool} {sl : Slot} (h : (emptyTrie n).slotAt bs = some sl) (hsl : sl ≠ .empty) :
    bs = [] ∧ sl = .node 0 := by
  rcases List.eq_nil_or_concat' bs with rfl | ⟨as, b, rfl⟩
  · exact ⟨rfl, (Option.some.inj h).symm⟩
  · obtain ⟨k, -, hslot⟩ := slotAt_snoc_eq_some_iff.1 h
    exact (hsl (hslot.symm.trans (emptyTrie_getD n _))).elim

theorem emptyTrie_grown (n : Nat) : (emptyTrie n).Grown n where
  tree := {
    sound := emptyTrie_sound n
    unique := fun as bs k has hbs => by rw [(slotAt_emptyTrie has (by simp)).1, (slotAt_emptyTrie hbs (by simp)).1]
    fresh := fun p _ => emptyTrie_getD n p }
  live := fun bs k h => .inl (slotAt_emptyTrie h (by simp)).1

/-- R132: the leaves of a table with the first symbols' codes inserted. -/
theorem insertFrom_emptyTrie_ok {n : Nat} {lens codes : List Nat} {t : Trie} (hn : 2 ≤ n) (hlens : lens.length ≤ n)
    (h : insertFrom n 0 lens codes (emptyTrie n) = .ok t) :
    t.Grown n ∧ ∀ bs v, t.slotAt bs = some (.leaf v) ↔ HasCode lens codes v bs := by
  obtain ⟨ht, hleaf⟩ := (emptyTrie_grown n).insertFrom_ok hn (by omega) h
  refine ⟨ht, fun bs v => (hleaf bs v).trans ⟨?_, fun h => .inl ⟨v, by simp, h⟩⟩⟩
  rintro (⟨i, hi, hcode⟩ | hempty)
  · rwa [hi, Nat.zero_add]
  · cases (slotAt_emptyTrie hempty (by simp)).2

/-- R133, R134: the symbol whose code could not be inserted, all before it being in the table. -/
theorem insertFrom_error {n v : Nat} {lens codes : List Nat} {t u : Trie} (h : insertFrom n v lens codes t = .error u) :
    ∃ i l c t', lens[i]? = some l ∧ codes[i]? = some c ∧ insertFrom n v (lens.take i) (codes.take i) t = .ok t' ∧
      insertCode n (v + i) c l 0 t' = .error u := by
  induction lens generalizing v codes t with
  | nil => cases h
  | cons l lens ih =>
    cases codes with
    | nil => cases h
    | cons c codes =>
      rw [insertFrom] at h
      split at h
      next t' hcode =>
        obtain ⟨i, l', c', t'', hl', hc', hbefore, herror⟩ := ih h
        refine ⟨i + 1, l', c', t'', hl', hc', ?_, by rwa [← Nat.add_assoc, Nat.add_right_comm]⟩
        rw [List.take_succ_cons, List.take_succ_cons, insertFrom, hcode]
        exact hbefore
      next t' hcode =>
        cases h
        exact ⟨0, l, c, t, rfl, rfl, rfl, hcode⟩

/-! ## The obligations -/

/-- Settles O14: each symbol inserted adds the leaf of its code to the table and no other. -/
theorem tableHoldsExactlyTheCodes : Obligations.TableHoldsExactlyTheCodes := by
  intro n lens codes t hn hlens _ hcompile
  exact (insertFrom_emptyTrie_ok hn hlens.le hcompile).2

/-- Settles O16: a leaf or a node met by the code would be that of another code, one of which is the beginning of the other (O13). -/
theorem compileFailsOnlyForWantOfNodes : Obligations.CompileFailsOnlyForWantOfNodes := by
  intro n maxLen lens codes t hn hlens hmax hbuild hcompile
  obtain ⟨v, l, c, t', hl, hc, hbefore, herror⟩ := insertFrom_error hcompile
  rw [Nat.zero_add] at herror
  have hv : v < n := hlens ▸ (List.getElem?_eq_some_iff.1 hl).1
  have hpos : 0 < l := Nat.pos_of_ne_zero (by rintro rfl; cases herror)
  obtain ⟨ht', hleaf⟩ := insertFrom_emptyTrie_ok hn ((List.length_take_le' _ _).trans hlens.le) hbefore
  simp only [hasCode_take] at hleaf
  have hout := insertCode_outcome_root (c := c) hn hv ht'.tree hpos
  rw [herror] at hout
  cases hout with
  | @noNode _ pre ho hpre hne hslot hfull =>
    refine ⟨hfull, v, l, c, pre.length, hl, hc, ?_, ?_, fun w l' c' hw hl' hc' hpos' => ?_⟩
    · have hlt := hpre.length_le.lt_of_ne fun h => hne (hpre.eq_of_length h)
      rwa [length_bitsMsb] at hlt
    · rwa [← List.prefix_iff_eq_take.1 hpre]
    · exact (ho.leaf_iff _ w).2 ((hleaf _ w).2 ⟨hw, l', c', hl', hc', hpos', rfl⟩)
  | leafMet ho hpre hslot =>
    obtain ⟨hw, l', c', hl', hc', hpos', rfl⟩ := (hleaf _ _).1 ((ho.leaf_iff _ _).1 hslot)
    exact (codesArePrefixFree maxLen lens codes _ v l' l c' c hbuild hmax hw.ne hl' hl hpos' hpos hc' hc hpre).elim
  | nodeMet ho hslot =>
    rcases ho.node_of_node _ _ hslot with ⟨j, hj⟩ | ⟨-, hne⟩
    · rcases ht'.live _ j hj with hnil | ⟨code, w, hpre, hcode⟩
      · exact (hpos.ne' (by simpa using congrArg List.length hnil)).elim
      · obtain ⟨hw, l', c', hl', hc', hpos', rfl⟩ := (hleaf _ _).1 hcode
        exact (codesArePrefixFree maxLen lens codes v w l l' c c' hbuild hmax hw.ne' hl hl' hpos hpos' hc hc' hpre).elim
    · exact (hne rfl).elim

end Sys2Proof.Machine
end

section
/-! SUPPORT. DecodeSymbol on any table (spec R140 to R143): bits of the stream that lead to a slot bring the walk to that slot, and the
slot alone says how the walk goes on. -/

namespace Sys2Proof.Machine

/-! ## The walk from a slot -/

/-- R140, R141: DecodeSymbol once its walk has come to a slot. -/
def walkFrom (t : List Slot) (fuel : Nat) : Slot → M Nat
  | .empty => raise .invalidBlockData
  | .leaf v => pure v
  | .node k => walkTrie t fuel k

/-- R140: one bit takes the walk from a node to the node's slot for that bit. -/
theorem walkFrom_bit (t : List Slot) (fuel k : Nat) {s : State} (h : s.cur.byteOff < s.regs.inLen)
    (hw : s.regs.inLen < 2 ^ s.cfg.addrW) :
    walkFrom t (fuel + 1) (.node k) s =
      walkFrom t fuel (t.getD (2 * k + (streamBit s (bitPos s.cur)).toNat) .empty) (afterWalk 1 (BitVec.ofNat 9 k) s) := by
  rw [walkFrom, walkTrie_bit t fuel k h hw]
  cases t.getD (2 * k + (streamBit s (bitPos s.cur)).toNat) .empty <;> rfl

/-- R140: bits that lead from slot to slot take the walk there, one unit of fuel and one bit of IN for each. -/
theorem walkFrom_of_slotAfter {t : List Slot} {bs : List Bool} {fuel : Nat} {sl sl' : Slot} {s : State}
    (hsl : slotAfter t sl bs = some sl') (hr : readable s bs.length) (hb : bitsAt s (bitPos s.cur) bs) :
    ∃ p, walkFrom t (fuel + bs.length) sl s = walkFrom t fuel sl' (afterWalk bs.length p s) := by
  induction bs generalizing sl s with
  | nil =>
    obtain rfl : sl = sl' := by simpa [slotAfter] using hsl
    exact ⟨s.syms.tpos, by simp [afterWalk]⟩
  | cons b bs ih =>
    cases sl with
    | empty | leaf v => cases hsl
    | node k =>
      obtain ⟨hin, hrest⟩ := readable_succ hr
      obtain ⟨rfl, hbs⟩ := hb
      obtain ⟨p, hp⟩ := ih (s := afterWalk 1 (BitVec.ofNat 9 k) s) hsl hrest
        ((bitsAt_afterWalk ..).2 (by simpa [afterWalk] using hbs))
      refine ⟨p, (walkFrom_bit t (fuel + bs.length) k hin hr.1).trans (hp.trans ?_)⟩
      rw [afterWalk_afterWalk, Nat.add_comm 1, List.length_cons]

/-- R140: DecodeSymbol goes on from the slot that the bits at the cursor lead to from the root, with fuel left. -/
theorem decodeSymbol_of_slotAfter {t : List Slot} {s : State} {bs : List Bool} {sl : Slot}
    (hsl : slotAfter t (.node 0) bs = some sl) (hr : readable s bs.length) (hb : bitsAt s (bitPos s.cur) bs) :
    ∃ fuel p, decodeSymbol t s = walkFrom t (fuel + 1) sl (afterWalk bs.length p s) := by
  obtain ⟨fuel, hfuel⟩ := Nat.exists_eq_add_of_le' (length_le_bitsLeft hr)
  obtain ⟨p, hp⟩ := walkFrom_of_slotAfter (fuel := fuel + 1) hsl hr hb
  refine ⟨fuel, p, Eq.trans ?_ hp⟩
  rw [Nat.add_right_comm, ← hfuel]
  rfl

/-- R141: bits that lead from the root to an EMPTY slot are no code. -/
theorem decodeSymbol_empty {t : List Slot} {s : State} {bs : List Bool} (hsl : slotAfter t (.node 0) bs = some .empty)
    (hr : readable s bs.length) (hb : bitsAt s (bitPos s.cur) bs) :
    ∃ p, decodeSymbol t s = .error (.raised .invalidBlockData) (afterWalk bs.length p s) := by
  obtain ⟨fuel, p, hp⟩ := decodeSymbol_of_slotAfter hsl hr hb
  exact ⟨p, hp⟩

/-- R142: bits that lead from the root to a node and are the last of IN are a code cut short. -/
theorem decodeSymbol_end {t : List Slot} {s : State} {bs : List Bool} {k : Nat} (hsl : slotAfter t (.node 0) bs = some (.node k))
    (hr : readable s bs.length) (hb : bitsAt s (bitPos s.cur) bs) (hend : 8 * s.regs.inLen ≤ bitPos s.cur + bs.length) :
    ∃ p, decodeSymbol t s = .error (.raised .endOfInput) (afterWalk bs.length p s) := by
  obtain ⟨fuel, p, hp⟩ := decodeSymbol_of_slotAfter hsl hr hb
  have hout : s.regs.inLen ≤ (advance s.cur bs.length).byteOff := by
    rwa [← not_lt, byteOff_lt_iff, bitPos_advance, not_lt]
  refine ⟨BitVec.ofNat 9 k, hp.trans ((walkTrie_end t fuel k hout).trans ?_)⟩
  rw [afterWalk_afterWalk, Nat.add_zero]

/-! ## The codes of an alphabet -/

/-- R120, R124: the builder gives every symbol of the alphabet a code, a dummy one where its length is 0. -/
theorem length_of_buildCodes {maxLen : Nat} {lens codes : List Nat} (h : buildCodes maxLen lens = some codes) :
    codes.length = lens.length := by
  obtain ⟨-, rfl⟩ := (buildCodes_eq_some_iff maxLen lens codes).1 h
  exact length_assignCodes _ _

/-! ## The obligations -/

/-- Settles O9: a leaf, an EMPTY slot and a node at the end of IN are the three ways a walk ends. -/
theorem decodeSymbolFollowsTheTable : Obligations.DecodeSymbolFollowsTheTable := by
  intro t s bs hr hb
  exact ⟨fun v hsl => decodeSymbol_leaf hsl hr hb, fun hsl => decodeSymbol_empty hsl hr hb,
    fun k hsl hend => decodeSymbol_end hsl hr hb hend⟩

/-- Settles O15: the compiled table leads a symbol's code to the symbol's leaf (O14), and DecodeSymbol follows the table (O9). -/
theorem decodeSymbolInvertsTheBuilder : Obligations.DecodeSymbolInvertsTheBuilder := by
  intro n maxLen lens codes t s v l c hn hlens hbuild hcompile hl hpos hc hr hb
  have hcodes : codes.length = n := (length_of_buildCodes hbuild).trans hlens
  have hleaf : slotAfter t.slots (.node 0) (bitsMsb l c) = some (.leaf v) :=
    (tableHoldsExactlyTheCodes n lens codes t hn hlens hcodes hcompile _ v).2 ⟨l, c, hl, hc, hpos, rfl⟩
  have hwalk := (decodeSymbolFollowsTheTable t.slots s (bitsMsb l c) (by rwa [length_bitsMsb]) hb).1 v hleaf
  rwa [length_bitsMsb] at hwalk

end Sys2Proof.Machine
end

section
/-! SUPPORT. Building the two tables of a dynamic block from its length sequence (spec R166). -/

namespace Sys2Proof.Machine

/-! ## The tables of a dynamic block -/

theorem getD_take {α : Type} (l : List α) (m k : Nat) (d : α) : (l.take m).getD k d = if k < m then l.getD k d else d := by
  simp only [List.getD_eq_getElem?_getD, List.getElem?_take]
  split <;> rfl

/-- R166: the lengths of the literal/length alphabet, from the sequence. -/
def splitLl (s : State) : Vector (BitVec 4) 288 := tabOfList 288 (s.seq.lenSeq.toList.take s.hdr.hlit.toNat) 0

/-- R166: the lengths of the distance alphabet, from the sequence. -/
def splitDist (s : State) : Vector (BitVec 4) 32 :=
  tabOfList 32 ((s.seq.lenSeq.toList.drop s.hdr.hlit.toNat).take s.hdr.hdist.toNat) 0

theorem tabGet_splitLl (s : State) {k : Nat} (hk : k < 288) :
    tabGet (splitLl s) k 0 = if k < s.hdr.hlit.toNat then tabGet s.seq.lenSeq k 0 else 0 := by
  rw [splitLl, tabGet_tabOfList _ _ _ hk, getD_take]
  rfl

theorem tabGet_splitDist (s : State) {k : Nat} (hk : k < 32) :
    tabGet (splitDist s) k 0 = if k < s.hdr.hdist.toNat then tabGet s.seq.lenSeq (s.hdr.hlit.toNat + k) 0 else 0 := by
  rw [splitDist, tabGet_tabOfList _ _ _ hk, getD_take, List.getD_eq_getElem?_getD, List.getElem?_drop, tabGet,
    List.getD_eq_getElem?_getD]

theorem engineStep_of_sequenceDone {s : State} (hb : s.status.busy = true) (hd : sequenceDone s = true) :
    engineStep s = finish buildBlockTables s := by
  simp [engineStep, hb, hd]

/-- R166: the first table, and what follows it. -/
theorem buildBlockTables_eq (s : State) :
    buildBlockTables s =
      let r := buildTable 15 { s.ll with lens := splitLl s } s.scratch
      let q := buildTable 15 { s.dist with lens := splitDist s } r.scratch
      if r.ok then
        if q.ok then .ok () { s with ll := r.huff, dist := q.huff, scratch := q.scratch, loopAt := .symbols }
        else .error (.raised .oversubscribedCode) { s with ll := r.huff, dist := q.huff, scratch := q.scratch }
      else .error (.raised .oversubscribedCode)
        { s with ll := r.huff, dist := { s.dist with lens := splitDist s }, scratch := r.scratch } := by
  refine (bind_of_ok rfl).trans ((bind_of_ok rfl).trans ((bind_of_ok rfl).trans ((ite_apply_state ..).trans ?_)))
  refine ite_congr rfl (fun _ => ?_) fun _ => rfl
  exact (bind_of_ok rfl).trans ((bind_of_ok rfl).trans (ite_apply_state ..))

/-- Settles O34: the sequence is split, and each table that fails stops the build where it stands. -/
theorem blockTablesFromTheSequence : Obligations.BlockTablesFromTheSequence := by
  intro s hb hd
  have hrun := buildBlockTables_eq s
  refine ⟨splitLl s, splitDist s, _, _, fun k => tabGet_splitLl s, fun k => tabGet_splitDist s, rfl, rfl, fun hr hq => ?_,
    fun hr hq => ?_, fun hr => ?_⟩ <;> rw [engineStep_of_sequenceDone hb hd]
  · exact finish_of_ok (hrun.trans ((if_pos hr).trans (if_pos hq)))
  · exact finish_of_raised (hrun.trans ((if_pos hr).trans (if_neg (by simp [hq]))))
  · exact finish_of_raised (hrun.trans (if_neg (by simp [hr])))

end Sys2Proof.Machine
end

section
/-! SUPPORT. What an element costs and where it leaves STATE (spec R11, R150, R167, R169): every bit of IN that is consumed pays for 258
bytes of output, so OUT_POS and the bits still to be read bound each other. -/

namespace Sys2Proof.Machine

/-! ## The account of a run -/

/-- R11: the highest OUT_POS that can still be reached, at 258 bytes for each bit of IN that is left. -/
def outReach (s : State) : Nat := s.outPos + 258 * bitsLeft s

/-- On the way from `s` to `t` at most `k` bytes more were written than the bits consumed pay for. -/
structure Spent (k : Nat) (s t : State) : Prop where
  bits : bitsLeft t ≤ bitsLeft s
  reach : outReach t ≤ outReach s + k

/-- On the way from `s` to `t` at least one bit more was consumed than the bytes written ask for. -/
structure Earned (s t : State) : Prop where
  bits : bitsLeft t < bitsLeft s
  reach : outReach t + 258 ≤ outReach s

theorem bitsLeft_eq (s : State) : bitsLeft s = 8 * s.regs.inLen - bitPos s.cur := rfl

/-- Nothing read and nothing written. -/
theorem Spent.of_same {s t : State} (hregs : t.regs = s.regs) (hcur : t.cur = s.cur) (hpos : t.outPos = s.outPos) : Spent 0 s t := by
  have hbits : bitsLeft t = bitsLeft s := by rw [bitsLeft, bitsLeft, hregs, hcur]
  exact ⟨hbits.le, by rw [outReach, outReach, hbits, hpos]; omega⟩

theorem Spent.refl (s : State) : Spent 0 s s := .of_same rfl rfl rfl

theorem Spent.trans {j k : Nat} {s t u : State} (h : Spent j s t) (h' : Spent k t u) : Spent (j + k) s u :=
  ⟨h'.bits.trans h.bits, by have h1 := h.reach; have h2 := h'.reach; omega⟩

theorem Spent.mono {j k : Nat} {s t : State} (h : Spent j s t) (hjk : j ≤ k) : Spent k s t :=
  ⟨h.bits, h.reach.trans (by omega)⟩

theorem Earned.spend {s t u : State} (h : Earned s t) (h' : Spent 0 t u) : Earned s u :=
  ⟨h'.bits.trans_lt h.bits, by have h1 := h.reach; have h2 := h'.reach; omega⟩

theorem Spent.earn {s t u : State} (h : Spent 0 s t) (h' : Earned t u) : Earned s u :=
  ⟨h'.bits.trans_le h.bits, by have h1 := h.reach; have h2 := h'.reach; omega⟩

/-- A bit consumed pays for any `k` bytes up to 258. -/
theorem Earned.cover {k : Nat} {s t u : State} (h : Earned s t) (hk : k ≤ 258) (h' : Spent k t u) : Spent 0 s u :=
  ⟨h'.bits.trans h.bits.le, by have h1 := h.reach; have h2 := h'.reach; omega⟩

/-- The cursor moved on. -/
theorem Spent.of_cur {s : State} {c : Cursor} (h : bitPos s.cur ≤ bitPos c) : Spent 0 s { s with cur := c } := by
  have hbits : bitsLeft { s with cur := c } ≤ bitsLeft s := Nat.sub_le_sub_left h _
  exact ⟨hbits, by simp only [outReach]; omega⟩

/-- The cursor moved on from inside IN. -/
theorem Earned.of_cur {s : State} {c : Cursor} (h : bitPos s.cur < bitPos c) (hl : s.cur.byteOff < s.regs.inLen) :
    Earned s { s with cur := c } := by
  have hp := (byteOff_lt_iff s.cur _).1 hl
  have hbits : bitsLeft { s with cur := c } < bitsLeft s := by rw [bitsLeft_eq, bitsLeft_eq]; dsimp only; omega
  exact ⟨hbits, by simp only [outReach]; omega⟩

theorem Spent.afterSink (v : Byte) (s : State) : Spent 1 s (afterSink v s) := by
  rw [afterSink_eq]
  exact ⟨le_rfl, by simp only [outReach, bitsLeft]; omega⟩

/-- STATE, BUSY and the parameters are the same. -/
structure SameStage (s t : State) : Prop where
  blk : t.blk = s.blk
  busy : t.status.busy = s.status.busy
  cfg : t.cfg = s.cfg

theorem SameStage.refl (s : State) : SameStage s s := ⟨rfl, rfl, rfl⟩

theorem SameStage.trans {s t u : State} (h : SameStage s t) (h' : SameStage t u) : SameStage s u :=
  ⟨h'.blk.trans h.blk, h'.busy.trans h.busy, h'.cfg.trans h.cfg⟩

/-! ## The pseudocode within a bound -/

/-- Run at `s`, the pseudocode ends in `Q`; an error leaves OUT_POS, and what can still be reached, at or below `B`, and OUT_POS does not
overflow unless `B` does. -/
def Within {α : Type} (B : Nat) (m : M α) (s : State) (Q : State → Prop) : Prop :=
  match m s with
  | .ok _ t => Q t
  | .error (.raised _) t => outReach t ≤ B
  | .error (.fault f) _ => f = .outPosOverflow → 2 ^ s.cfg.addrW ≤ B
  | .error (.refused _) _ => True

section
variable {α β : Type} {B : Nat} {m : M α} {s : State} {P Q : State → Prop}

theorem Within.of_ok {a : α} {t : State} (h : m s = .ok a t) (hQ : Q t) : Within B m s Q := by
  unfold Within; rw [h]; exact hQ

theorem Within.of_raised {e : ErrKind} {t : State} (h : m s = .error (.raised e) t) (ht : outReach t ≤ B) : Within B m s Q := by
  unfold Within; rw [h]; exact ht

theorem Within.of_fault {f : Fault} {t : State} (h : m s = .error (.fault f) t) (hf : f = .outPosOverflow → 2 ^ s.cfg.addrW ≤ B) :
    Within B m s Q := by
  unfold Within; rw [h]; exact hf

theorem Within.mono (h : Within B m s P) (hPQ : ∀ t, P t → Q t) : Within B m s Q := by
  unfold Within at h ⊢
  cases hm : m s with
  | ok a t => rw [hm] at h; exact hPQ t h
  | error e t => rw [hm] at h; cases e <;> exact h

/-- What is known of an operation's end by other means. -/
theorem Within.and (h : Within B m s P) (hQ : ∀ a t, m s = .ok a t → Q t) : Within B m s fun t => P t ∧ Q t := by
  unfold Within at h ⊢
  cases hm : m s with
  | ok a t => rw [hm] at h; exact ⟨h, hQ a t hm⟩
  | error e t => rw [hm] at h; cases e <;> exact h

/-- One operation, then the rest of the element. -/
theorem Within.bind {f : α → M β} (hm : Within B m s P) (hcfg : ∀ t, P t → t.cfg = s.cfg) (hf : ∀ a t, P t → Within B (f a) t Q) :
    Within B (m >>= f) s Q := by
  unfold Within at hm ⊢
  rw [bind_apply]
  cases h : m s with
  | ok a t =>
    rw [h] at hm
    have ht := hf a t hm
    unfold Within at ht
    rwa [hcfg t hm] at ht
  | error e t => rw [h] at hm; cases e <;> exact hm

theorem Within.ite {p : Prop} [Decidable p] {n : M α} (hm : p → Within B m s Q) (hn : ¬p → Within B n s Q) :
    Within B (if p then m else n) s Q := by
  split
  · exact hm ‹_›
  · exact hn ‹_›

/-- An operation that cannot stop, then the rest of the element. -/
theorem Within.bind_ok {f : α → M β} {a : α} {t : State} (h : m s = .ok a t) (hcfg : t.cfg = s.cfg) (hf : Within B (f a) t Q) :
    Within B (m >>= f) s Q := by
  unfold Within at hf ⊢
  rwa [bind_of_ok h, ← hcfg]

end

/-- From every state the pseudocode costs at most `k` bytes and leaves STATE and BUSY. -/
def Costs {α : Type} (k : Nat) (m : M α) : Prop :=
  ∀ s B, outReach s + k ≤ B → Within B m s fun t => SameStage s t ∧ Spent k s t

/-- From every state the pseudocode consumes a bit, writes nothing and leaves STATE and BUSY. -/
def Earns {α : Type} (m : M α) : Prop :=
  ∀ s B, outReach s ≤ B → Within B m s fun t => SameStage s t ∧ Earned s t

section
variable {α β : Type} {B j k : Nat} {m : M α} {s : State} {Q : State → Prop}

/-- One operation that costs nothing, then the rest of the element. -/
theorem Costs.andThen {f : α → M β} (hm : Costs 0 m) (hB : outReach s ≤ B)
    (hf : ∀ a t, SameStage s t → Spent 0 s t → Within B (f a) t Q) : Within B (m >>= f) s Q :=
  (hm s B hB).bind (fun _ ht => ht.1.cfg) fun a t ht => hf a t ht.1 ht.2

theorem Costs.add {f : α → M β} (hm : Costs j m) (hf : ∀ a, Costs k (f a)) : Costs (j + k) (m >>= f) := fun s B hB =>
  (hm s B (by omega)).bind (fun _ ht => ht.1.cfg) fun a t ⟨hst, hsp⟩ =>
    (hf a t B (by have := hsp.reach; omega)).mono fun _ hu => ⟨hst.trans hu.1, hsp.trans hu.2⟩

theorem Costs.bind {f : α → M β} (hm : Costs 0 m) (hf : ∀ a, Costs k (f a)) : Costs k (m >>= f) :=
  Nat.zero_add k ▸ hm.add hf

theorem Costs.mono (h : Costs j m) (hjk : j ≤ k) : Costs k m := fun s B hB =>
  (h s B (by omega)).mono fun _ ht => ⟨ht.1, ht.2.mono hjk⟩

theorem Costs.pure (a : α) : Costs 0 (pure a : M α) := fun s _ _ => .of_ok rfl ⟨.refl s, .refl s⟩

theorem Costs.raise (e : ErrKind) : Costs 0 (raise e : M α) := fun _ _ hB => .of_raised rfl hB

theorem Costs.ite {p : Prop} [Decidable p] {n : M α} (hm : Costs k m) (hn : Costs k n) : Costs k (if p then m else n) :=
  fun s B hB => .ite (fun _ => hm s B hB) fun _ => hn s B hB

/-- An update of registers that are not in the account. -/
theorem Costs.modify {g : State → State} (hst : ∀ s, SameStage s (g s) := by exact fun _ => ⟨rfl, rfl, rfl⟩)
    (hsp : ∀ s, Spent 0 s (g s) := by exact fun _ => .of_same rfl rfl rfl) : Costs 0 (modify g : M PUnit) := fun s _ _ => .of_ok rfl ⟨hst s, hsp s⟩

/-- An operation that goes on from the state as it stands. -/
theorem Costs.ofGet {f : State → M α} (h : ∀ s, Costs k (f s)) : Costs k (get >>= f) := fun s => h s s

theorem Earns.costs (h : Earns m) : Costs 0 m := fun s B hB =>
  (h s B hB).mono fun _ ht => ⟨ht.1, ht.2.cover (Nat.zero_le _) (.refl _)⟩

theorem Earns.sessionCorrupt : Earns (throw (.fault .sessionCorrupt) : M α) := fun _ _ _ => .of_fault rfl fun h => nomatch h

/-- What a bit earns covers an operation that costs up to 258 bytes. -/
theorem Earns.cover {f : α → M β} (hm : Earns m) (hk : k ≤ 258) (hf : ∀ a, Costs k (f a)) : Costs 0 (m >>= f) := fun s B hB =>
  (hm s B hB).bind (fun _ ht => ht.1.cfg) fun a t ⟨hst, he⟩ =>
    (hf a t B (by have := he.reach; omega)).mono fun _ hu => ⟨hst.trans hu.1, he.cover hk hu.2⟩

theorem Earns.bind {f : α → M β} (hm : Earns m) (hf : ∀ a, Costs 0 (f a)) : Earns (m >>= f) := fun s B hB =>
  (hm s B hB).bind (fun _ ht => ht.1.cfg) fun a t ⟨hst, he⟩ =>
    (hf a t B (by have := he.reach; omega)).mono fun _ hu => ⟨hst.trans hu.1, he.spend hu.2⟩

theorem Costs.earns {f : α → M β} (hm : Costs 0 m) (hf : ∀ a, Earns (f a)) : Earns (m >>= f) := fun s B hB =>
  hm.andThen hB fun a t hst hsp => (hf a t B (by have := hsp.reach; omega)).mono fun _ hu => ⟨hst.trans hu.1, hsp.earn hu.2⟩

theorem Earns.ofGet {f : State → M α} (h : ∀ s, Earns (f s)) : Earns (get >>= f) := fun s => h s s

end

/-! ## The shared operations -/

theorem earns_readBit : Earns readBit := by
  intro s B hB
  unfold Within
  cases h : readBit s with
  | ok b t =>
    obtain ⟨hl, -, rfl⟩ := readBit_inv h
    exact ⟨⟨rfl, rfl, rfl⟩, .of_cur (by rw [bitPos_advance]; omega) hl⟩
  | error e t =>
    obtain ⟨rfl, ⟨rfl, -⟩ | ⟨rfl, -⟩⟩ := readBit_stop h
    · exact hB
    · exact fun h => nomatch h

theorem costs_readLsb (n : Nat) : Costs 0 (readLsb n) := by
  induction n with
  | zero => exact .pure 0
  | succ n ih => exact earns_readBit.costs.bind fun _ => ih.bind fun _ => .pure _

theorem earns_readMsb_one : Earns (readMsb 1) := earns_readBit.bind fun _ => .pure _

theorem bitPos_lt_nextByte (c : Cursor) : bitPos c < bitPos { byteOff := c.byteOff + 1, bitOff := 0#3 } := by
  have := c.bitOff.isLt
  simp only [bitPos, BitVec.toNat_ofNat]
  omega

theorem costs_advanceByte : Costs 0 advanceByte := by
  intro s B hB
  by_cases hw : s.cur.byteOff + 1 < 2 ^ s.cfg.addrW
  · exact .of_ok (advanceByte_ok hw) ⟨⟨rfl, rfl, rfl⟩, .of_cur (bitPos_lt_nextByte _).le⟩
  · exact .of_fault (advanceByte_fault (not_lt.1 hw)) fun h => nomatch h

theorem costs_alignToByte : Costs 0 alignToByte := .ofGet fun _ => .ite costs_advanceByte (.pure ())

theorem earns_readByte : Earns readByte := by
  intro s B hB
  by_cases hl : s.cur.byteOff < s.regs.inLen
  · by_cases hw : s.cur.byteOff + 1 < 2 ^ s.cfg.addrW
    · have hrun : readByte s = .ok (s.inBuf.read s.cur.byteOff) { s with cur := { byteOff := s.cur.byteOff + 1, bitOff := 0#3 } } := by
        simp [readByte, not_le.2 hl, advanceByte_ok hw]
      exact .of_ok hrun ⟨⟨rfl, rfl, rfl⟩, .of_cur (bitPos_lt_nextByte _) hl⟩
    · have hrun : readByte s = .error (.fault .byteOffOverflow) s := by
        simp [readByte, not_le.2 hl, advanceByte_fault (not_lt.1 hw)]
      exact .of_fault hrun fun h => nomatch h
  · exact .of_raised (readByte_end (not_lt.1 hl)) hB

theorem costs_readLe16 : Costs 0 readLe16 := earns_readByte.costs.bind fun _ => earns_readByte.costs.bind fun _ => .pure _

/-- R190: a byte to the sink costs itself. -/
theorem costs_sinkWrite (v : Byte) : Costs 1 (sinkWrite v) := by
  intro s B hB
  by_cases hw : s.outPos + 1 < 2 ^ s.cfg.addrW
  · refine .of_ok (sinkWrite_ok v hw) ⟨?_, .afterSink v s⟩
    rw [afterSink_eq]
    exact ⟨rfl, rfl, rfl⟩
  · refine .of_fault (sinkWrite_fault v (not_lt.1 hw)) fun _ => ?_
    unfold outReach at hB
    omega

theorem costs_setCopyLeft (n : Nat) : Costs 0 (setCopyLeft n) := .modify

theorem costs_copyBytes (dist n : Nat) : Costs n (copyBytes dist n) := by
  induction n with
  | zero => exact .pure ()
  | succ n ih =>
    refine Costs.mono (j := 1 + n) (.ofGet fun _ => ?_) (by omega)
    exact (costs_sinkWrite _).add fun _ => (costs_setCopyLeft n).bind fun _ => ih

theorem costs_copyBackReference (len dist : Nat) : Costs len (copyBackReference len dist) :=
  (costs_setCopyLeft len).bind fun _ => costs_copyBytes dist len

/-- R156: the byte of IN that is read covers the byte of OUT that is written. -/
theorem costs_storedBytes (n : Nat) : Costs 0 (storedBytes n) := by
  induction n with
  | zero => exact .pure ()
  | succ n ih =>
    exact earns_readByte.cover (k := 1) (by decide) fun b => (costs_sinkWrite b).add fun _ => (costs_setCopyLeft n).bind fun _ => ih

theorem costs_storedBody : Costs 0 storedBody :=
  .ofGet fun _ => .ite (.raise _) ((costs_setCopyLeft _).bind fun _ => costs_storedBytes _)

theorem earns_walkTrie (tab : List Slot) (fuel k : Nat) : Earns (walkTrie tab fuel k) := by
  induction fuel generalizing k with
  | zero => exact .sessionCorrupt
  | succ fuel ih =>
    refine Costs.earns .modify fun _ => earns_readMsb_one.bind fun bit => ?_
    cases tab.getD (2 * k + bit) .empty with
    | empty => exact .raise _
    | leaf v => exact .pure v
    | node j => exact (ih j).costs

theorem earns_decodeSymbol (tab : List Slot) : Earns (decodeSymbol tab) := .ofGet fun _ => earns_walkTrie tab _ 0

theorem earns_readHeader : Earns readHeader :=
  earns_readMsb_one.bind fun _ => Costs.bind .modify fun _ =>
    earns_readMsb_one.costs.bind fun _ => earns_readMsb_one.costs.bind fun _ => .pure _

theorem earns_fetchValue (f : Format) : Earns (fetchValue f) := .ofGet fun s => by
  cases f with
  | blockHeader => exact earns_readHeader
  | litlenSymbol => exact earns_decodeSymbol (litlenTable s)
  | distSymbol => exact earns_decodeSymbol (distTable s)
  | clSymbol => exact earns_decodeSymbol s.cl.trie.toList
  | hostCommand => exact .sessionCorrupt

/-- R91: the header bits or the code of an element are at least one bit. -/
theorem earns_fetch : Earns fetch := .ofGet fun s => by
  cases nextFormat s with
  | none => exact .sessionCorrupt
  | some f =>
    refine (earns_fetchValue f).bind fun v => ?_
    cases decode f v with
    | ok i => exact .pure i
    | error r => exact Earns.sessionCorrupt.costs

/-! ## Where an element leaves STATE -/

/-- R150, R167: where an element of the format `f`, run at `s`, leaves STATE and BUSY. -/
inductive Landing (f : Format) (s : State) : State → Prop where
  | error {t : State} (hblk : t.blk = .error) (hbusy : t.status.busy = false) : Landing f s t
  | done {t : State} (hblk : t.blk = .done) (hbusy : t.status.busy = false) (hfinal : t.hdr.bfinal = 1) : Landing f s t
  | header {t : State} (hblk : t.blk = .readBlockHeader) (hbusy : t.status.busy = s.status.busy) (hfinal : t.hdr.bfinal = 0) :
      Landing f s t
  | block {t : State} (hf : f = .blockHeader) (hblk : t.blk = .fixedBlock ∨ t.blk = .dynamicBlock)
      (hbusy : t.status.busy = s.status.busy) : Landing f s t
  | loop {t : State} (hf : f ≠ .blockHeader) (hblk : t.blk = s.blk) (hbusy : t.status.busy = s.status.busy) : Landing f s t

/-- A header leaves STATE for good, so where it lands does not depend on STATE. -/
theorem Landing.congr {f : Format} {s s' t : State} (hblk : f ≠ .blockHeader → s'.blk = s.blk)
    (hbusy : s'.status.busy = s.status.busy) (h : Landing f s' t) : Landing f s t := by
  cases h with
  | error hblk' hbusy' => exact .error hblk' hbusy'
  | done hblk' hbusy' hfinal => exact .done hblk' hbusy' hfinal
  | header hblk' hbusy' hfinal => exact .header hblk' (hbusy'.trans hbusy) hfinal
  | block hf hblk' hbusy' => exact .block hf hblk' (hbusy'.trans hbusy)
  | loop hf hblk' hbusy' => exact .loop hf (hblk'.trans (hblk hf)) (hbusy'.trans hbusy)

/-- The outcome of an element: within the bound, and with STATE where the format lets it be. -/
def Lands (B : Nat) (f : Format) (s : State) : Host.Outcome State Fault Refusal → Prop
  | .next t => outReach t ≤ B ∧ Landing f s t
  | .fault g => g = .outPosOverflow → 2 ^ s.cfg.addrW ≤ B
  | .refused _ => True

theorem Within.finish {B : Nat} {f : Format} {m : M Unit} {s : State} (h : Within B m s fun t => outReach t ≤ B ∧ Landing f s t) :
    Lands B f s (finish m s) := by
  unfold Within at h
  unfold Machine.finish
  cases hm : m s with
  | ok a t => rw [hm] at h; exact h
  | error e t =>
    rw [hm] at h
    cases e with
    | raised e => exact ⟨h, .error rfl rfl⟩
    | fault g => exact h
    | refused r => trivial

/-- An element of a Huffman block that leaves STATE as it is. -/
theorem Costs.finish {B k : Nat} {f : Format} {m : M Unit} {s : State} (h : Costs k m) (hB : outReach s + k ≤ B)
    (hf : f ≠ .blockHeader) : Lands B f s (finish m s) :=
  Within.finish ((h s B hB).mono fun _ ht => ⟨ht.2.reach.trans hB, .loop hf ht.1.blk ht.1.busy⟩)

/-- The rest of an element costs nothing and ends it. -/
def Finishes (f : Format) (m : M Unit) : Prop :=
  ∀ s B, outReach s ≤ B → Within B m s fun t => outReach t ≤ B ∧ Landing f s t

theorem Finishes.after {α : Type} {f : Format} {m : M α} {g : α → M Unit} (hm : Costs 0 m) (hg : ∀ a, Finishes f (g a)) :
    Finishes f (m >>= g) := fun _ B hB =>
  hm.andThen hB fun a t hst hsp =>
    (hg a t B (hsp.reach.trans hB)).mono fun _ hu => ⟨hu.1, hu.2.congr (fun _ => hst.blk) hst.busy⟩

/-- A header may write STATE on its way. -/
theorem Finishes.update {g : State → State} {h : PUnit → M Unit} (hbusy : ∀ s, (g s).status.busy = s.status.busy)
    (hcfg : ∀ s, (g s).cfg = s.cfg) (hsp : ∀ s, Spent 0 s (g s)) (hh : Finishes .blockHeader (h ⟨⟩)) :
    Finishes .blockHeader (modify g >>= h) := fun s B hB =>
  .bind_ok rfl (hcfg s) <| (hh (g s) B ((hsp s).reach.trans hB)).mono fun _ ht =>
    ⟨ht.1, ht.2.congr (fun hf => absurd rfl hf) (hbusy s)⟩

theorem Finishes.lands {f : Format} {m : M Unit} {B : Nat} {s : State} (h : Finishes f m) (hB : outReach s ≤ B) :
    Lands B f s (finish m s) :=
  Within.finish (h s B hB)

/-- A header that has entered a Huffman block and costs nothing from there on. -/
theorem Costs.entersBlock {m : M Unit} {B : Nat} {s s' : State} (h : Costs 0 m) (hB : outReach s' ≤ B)
    (hblk : s'.blk = .fixedBlock ∨ s'.blk = .dynamicBlock) (hbusy : s'.status.busy = s.status.busy) :
    Within B m s' fun t => outReach t ≤ B ∧ Landing .blockHeader s t :=
  (h s' B hB).mono fun _ ht => ⟨ht.2.reach.trans hB, .block rfl (ht.1.blk ▸ hblk) (ht.1.busy.trans hbusy)⟩

/-- R167. -/
theorem finishes_endOfBlock (f : Format) : Finishes f endOfBlock := by
  intro s B hB
  show outReach (if _ then _ else _) ≤ B ∧ Landing f s (if _ then _ else _)
  split
  · rename_i h1
    exact ⟨hB, .done rfl rfl h1⟩
  · rename_i h1
    exact ⟨hB, .header rfl rfl ((BitVec.eq_zero_or_eq_one s.hdr.bfinal).resolve_right h1)⟩

/-! ## The elements -/

theorem costs_latchHeader (b : Bool) (v : Nat) : Costs 0 (latchHeader b v) :=
  .modify

theorem costs_latchSym (sym : Nat) : Costs 0 (latchSym sym) := .modify

theorem execStored_lands (b : Bool) {B : Nat} {s : State} (hB : outReach s ≤ B) : Lands B .blockHeader s (execStored b s) := by
  refine Finishes.lands (.after (costs_latchHeader b 0) fun _ => ?_) hB
  refine .update (fun _ => rfl) (fun _ => rfl) (fun _ => .of_same rfl rfl rfl) ?_
  refine .after costs_alignToByte fun _ => .after costs_readLe16 fun _ => ?_
  refine .after .modify fun _ => .after costs_readLe16 fun _ => ?_
  refine .after .modify fun _ => ?_
  exact .after costs_storedBody fun _ => finishes_endOfBlock _

theorem execFixed_lands (b : Bool) {B : Nat} {s : State} (hB : outReach s ≤ B) : Lands B .blockHeader s (execFixed b s) :=
  Within.finish (.bind_ok rfl rfl (.of_ok rfl ⟨hB, .block rfl (.inl rfl) rfl⟩))

theorem execReserved_lands (b : Bool) {B : Nat} {s : State} (hB : outReach s ≤ B) : Lands B .blockHeader s (execReserved b s) :=
  Within.finish (.bind_ok rfl rfl (.of_raised rfl hB))

theorem costs_readClLengths (order : List Nat) (n : Nat) : Costs 0 (readClLengths order n) := by
  induction order generalizing n with
  | nil => exact .pure ()
  | cons p order ih =>
    exact (costs_readLsb _).bind fun _ => Costs.bind .modify fun _ => ih _

theorem costs_buildClTable : Costs 0 buildClTable := fun _ _ hB =>
  .bind_ok rfl rfl <| .bind_ok rfl rfl <| .ite (fun _ => .of_ok rfl ⟨⟨rfl, rfl, rfl⟩, .of_same rfl rfl rfl⟩) fun _ => .of_raised rfl hB

theorem costs_startSequence : Costs 0 startSequence := .modify

theorem execDynamic_lands (b : Bool) {B : Nat} {s : State} (hB : outReach s ≤ B) : Lands B .blockHeader s (execDynamic b s) := by
  refine Within.finish (.bind_ok rfl rfl (.bind_ok rfl rfl (Costs.entersBlock ?_ hB (.inr rfl) rfl)))
  refine (costs_readLsb 5).bind fun _ => Costs.bind .modify fun _ => (costs_readLsb 5).bind fun _ => Costs.bind .modify fun _ => ?_
  refine (costs_readLsb 4).bind fun _ => Costs.bind .modify fun _ => (costs_readClLengths _ _).bind fun _ => ?_
  exact costs_buildClTable.bind fun _ => costs_startSequence

theorem costs_copyLength (j : Nat) : Costs 0 (copyLength j) :=
  (costs_latchSym _).bind fun _ => .ite (.raise _) ((costs_readLsb _).bind fun _ => .modify)

theorem readLsb_syms {n v : Nat} {s t : State} (h : readLsb n s = .ok v t) : t.syms = s.syms := by
  obtain ⟨-, rfl, -⟩ := readLsb_inv h
  rfl

/-- R185, R188: a copy costs its length. -/
theorem copyDistance_lands (k : Nat) {B : Nat} {s : State} (hB : outReach s + s.syms.mlen.toNat ≤ B) :
    Lands B .distSymbol s (finish (copyDistance k) s) := by
  have hs : outReach s ≤ B := by omega
  refine Within.finish (.bind_ok rfl rfl (.ite (fun _ => .of_raised rfl hs) fun _ => ?_))
  have hread (u : State) (hu : outReach u ≤ B) := (costs_readLsb (distExtra.getD k 0) u B hu).and fun _ _ => readLsb_syms
  refine Within.bind (hread _ hs) (fun _ ht => ht.1.1.cfg) fun x t ⟨⟨hst, hsp⟩, hsyms⟩ => ?_
  have hmlen : t.syms.mlen = s.syms.mlen := (congrArg SymbolRegs.mlen hsyms).trans rfl
  have hreach : outReach t + t.syms.mlen.toNat ≤ B := hmlen ▸ (Nat.add_le_add_right hsp.reach _).trans hB
  refine .bind_ok rfl rfl (.bind_ok rfl rfl (.ite (fun _ => .of_raised rfl (by exact hsp.reach.trans hs)) fun _ => ?_))
  have hcopy := costs_copyBackReference t.syms.mlen.toNat (BitVec.ofNat 16 (mdistOf k x)).toNat
  refine Within.bind (hcopy _ B hreach) (fun _ ht => ht.1.cfg) fun _ u hu => .of_ok rfl ⟨hu.2.reach.trans hreach, ?_⟩
  exact .loop (by decide) (hu.1.blk.trans hst.blk) (hu.1.busy.trans hst.busy)

theorem costs_putLengths (c : BitVec 4) (n : Nat) : Costs 0 (putLengths c n) := by
  induction n with
  | zero => exact .pure ()
  | succ n ih => exact Costs.bind .modify fun _ => ih

theorem costs_putRun (c : BitVec 4) (r : Nat) : Costs 0 (putRun c r) := .ofGet fun _ => .ite (.raise _) (costs_putLengths c r)

/-- The bytes that an element of a format, read at `s`, can write beyond those that its own bits pay for. -/
def outputCost (s : State) : Format → Nat
  | .litlenSymbol => 1
  | .distSymbol => s.syms.mlen.toNat
  | _ => 0

/-- The meaning of every element of the stream. -/
theorem meaning_lands {f : Format} {m : State → Host.Outcome State Fault Refusal} (hm : Meaning f m) (hf : f ≠ .hostCommand) {B : Nat}
    {s : State} (hB : outReach s + outputCost s f ≤ B) : Lands B f s (m s) := by
  cases hm with
  | stored b => exact execStored_lands b hB
  | fixed b => exact execFixed_lands b hB
  | dynamic b => exact execDynamic_lands b hB
  | reserved b => exact execReserved_lands b hB
  | lit sym => exact ((costs_latchSym _).bind fun _ => costs_sinkWrite _).finish hB (by decide)
  | eob => exact Finishes.lands (.after (costs_latchSym _) fun _ => finishes_endOfBlock _) (by omega)
  | length j => exact (costs_copyLength j).finish (k := 0) (by omega) (by decide)
  | distance k => exact copyDistance_lands k hB
  | clLit c => exact Costs.finish (k := 0) .modify hB (by decide)
  | repPrev =>
    exact ((costs_readLsb 2).bind fun _ => Costs.ofGet fun _ => .ite (.raise _) (costs_putRun _ _)).finish hB (by decide)
  | repZero => exact ((costs_readLsb 3).bind fun _ => costs_putRun _ _).finish hB (by decide)
  | repZeroLong => exact ((costs_readLsb 7).bind fun _ => costs_putRun _ _).finish hB (by decide)
  | decode => exact absurd rfl hf

/-! ## Steps of the engine -/

/-- An instruction is fetched in the format that STATE asks for. -/
theorem nextFormat_of_fetch {s t : State} {i : Instr} (h : fetch s = .ok i t) : nextFormat s = some (encode i).format := by
  simp only [fetch, bind_apply, get_apply] at h
  cases hf : nextFormat s with
  | none => simp [hf] at h
  | some f =>
    simp only [hf, bind_apply] at h
    split at h
    · rename_i v u _
      cases hd : decode f v with
      | error r => simp [hd] at h
      | ok i' =>
        simp only [hd, pure_apply] at h
        cases h
        rw [decode_format hd]
    · cases h

theorem fetch_of_no_format {s : State} (h : nextFormat s = none) : fetch s = .error (.fault .sessionCorrupt) s := by
  simp [fetch, h]

/-- Building the tables of a dynamic block consumes and writes nothing, and the block goes on to its symbols or ends in an error. -/
theorem tables_step {s : State} (hb : s.status.busy = true) (hd : sequenceDone s = true) :
    ∃ t, engineStep s = .next t ∧ Spent 0 s t ∧ ((t.blk = s.blk ∧ t.status.busy = s.status.busy ∧ t.loopAt = .symbols) ∨
      (t.blk = .error ∧ t.status.busy = false)) := by
  obtain ⟨ls, ds, r, q, -, -, -, -, hok, hdist, hll⟩ := blockTablesFromTheSequence s hb hd
  cases hr : r.ok with
  | false => exact ⟨_, hll hr, .of_same rfl rfl rfl, .inr ⟨rfl, rfl⟩⟩
  | true =>
    cases hq : q.ok with
    | false => exact ⟨_, hdist hr hq, .of_same rfl rfl rfl, .inr ⟨rfl, rfl⟩⟩
    | true => exact ⟨_, hok hr hq, .of_same rfl rfl rfl, .inl ⟨rfl, rfl, rfl⟩⟩

theorem engineStep_of_element {s : State} (hb : s.status.busy = true) (hd : sequenceDone s = false) : engineStep s = runElement s := by
  simp [engineStep, hb, hd]

theorem Lands.congr {B : Nat} {f : Format} {s s' : State} (hst : SameStage s s') {o : Host.Outcome State Fault Refusal}
    (h : Lands B f s' o) : Lands B f s o := by
  cases o with
  | next t => exact ⟨h.1, h.2.congr (fun _ => hst.blk) hst.busy⟩
  | fault g => exact fun hg => hst.cfg ▸ h hg
  | refused r => trivial

/-- Where an element of the stream lands, within any bound that covers what it can write after its code is read. -/
theorem runElement_lands {f : Format} {s : State} (hf : nextFormat s = some f) {B : Nat} (hB : outReach s ≤ B)
    (hcost : ∀ i t, fetch s = .ok i t → outReach t + outputCost t f ≤ B) : Lands B f s (runElement s) := by
  have hfetch := earns_fetch s B hB
  unfold Within at hfetch
  unfold runElement
  cases hm : fetch s with
  | ok i t =>
    rw [hm] at hfetch
    obtain rfl : (encode i).format = f := Option.some.inj ((nextFormat_of_fetch hm).symm.trans hf)
    exact (meaning_lands (exec_meaning i) (nextFormat_ne_host hf) (hcost i t hm)).congr hfetch.1
  | error e t =>
    rw [hm] at hfetch
    cases e with
    | raised e => exact ⟨hfetch, .error rfl rfl⟩
    | fault g => exact hfetch
    | refused r => trivial

/-- R91: an element is fetched for at least one bit. -/
theorem fetch_earned {s t : State} {i : Instr} (h : fetch s = .ok i t) : Earned s t := by
  have hst := earns_fetch s _ le_rfl
  unfold Within at hst
  rw [h] at hst
  exact hst.2

theorem outputCost_le_of_width (s : State) (f : Format) : outputCost s f ≤ 511 := by
  have := s.syms.mlen.isLt
  cases f <;> simp only [outputCost] <;> omega

/-- Every next state of a running engine. -/
theorem engineStep_landing {s t : State} (hb : s.status.busy = true) (h : engineStep s = .next t) :
    ∃ f, nextFormat s = some f ∧ Landing f s t := by
  cases hd : sequenceDone s with
  | true =>
    obtain ⟨hblk, hloop, -⟩ := (sequenceDone_iff s).1 hd
    refine ⟨.clSymbol, by rw [nextFormat, hblk, hloop], ?_⟩
    obtain ⟨t', ht', -, ⟨hblk', hbusy', -⟩ | ⟨hblk', hbusy'⟩⟩ := tables_step hb hd <;> cases ht'.symm.trans h
    · exact .loop (by decide) hblk' hbusy'
    · exact .error hblk' hbusy'
  | false =>
    rw [engineStep_of_element hb hd] at h
    cases hf : nextFormat s with
    | none => simp [runElement, fetch_of_no_format hf] at h
    | some f =>
      have hcost (i : Instr) (u : State) (hu : fetch s = .ok i u) : outReach u + outputCost u f ≤ outReach s + 511 := by
        have := (fetch_earned hu).reach
        have := outputCost_le_of_width u f
        omega
      have hl := runElement_lands hf (Nat.le_add_right _ 511) hcost
      rw [h] at hl
      exact ⟨f, rfl, hl.2⟩

/-- The states of STATE in which a format is read. -/
theorem blk_of_nextFormat {s : State} {f : Format} (h : nextFormat s = some f) :
    (f = .blockHeader → s.blk = .readBlockHeader) ∧ (f ≠ .blockHeader → s.blk = .fixedBlock ∨ s.blk = .dynamicBlock) := by
  unfold nextFormat at h
  split at h <;> cases h <;> simp_all

/-- Settles O44: each way an element lands is one of the transitions. -/
theorem blockStateTransitions : Obligations.BlockStateTransitions := by
  intro s t hb h
  obtain ⟨f, hf, hl⟩ := engineStep_landing hb h
  obtain ⟨hhead, hbody⟩ := blk_of_nextFormat hf
  cases hl with
  | error hblk hbusy => simp [hblk, hbusy]
  | done hblk hbusy hfinal => simp [hblk, hbusy, hfinal]
  | header hblk hbusy hfinal => simp [hblk, hbusy, hb, hfinal]
  | block hfh hblk hbusy => rcases hblk with hblk | hblk <;> simp [hblk, hbusy, hb, hhead hfh]
  | loop hfb hblk hbusy => rcases hbody hfb with hs | hs <;> simp [hblk, hbusy, hb, hs]

/-! ## A DECODE ends -/

/-- R169: twice the bits of IN that are left, and one for the tables of a dynamic block that are still to be built. -/
def stepsLeft (s : State) : Nat := 2 * bitsLeft s + if s.blk = .dynamicBlock ∧ s.loopAt = .lengths then 1 else 0

/-- R41: what an element can write beyond its own bits is no more than a bit pays for. -/
theorem outputCost_le {s : State} (hc : ControlOk s) {f : Format} (hf : nextFormat s = some f) : outputCost s f ≤ 258 := by
  cases f with
  | distSymbol =>
    obtain ⟨-, -, hpos, -⟩ := position_of_nextFormat hf
    obtain ⟨hblk, hloop⟩ := hpos rfl
    have hcopy := hc.copy
    rcases hblk with hblk | hblk <;> simp only [session] at hblk <;> simp [copyOk, hblk, hloop] at hcopy <;> exact hcopy.2
  | litlenSymbol => show 1 ≤ 258; decide
  | blockHeader | clSymbol | hostCommand => exact Nat.zero_le _

/-- R41: a symbol is fetched with MLEN as the invariant has it. -/
theorem fetch_outputCost_le {s t : State} {i : Instr} {f : Format} (hs : StoreOk s) (hc : ControlOk s) (hf : nextFormat s = some f)
    (h : fetch s = .ok i t) : outputCost t f ≤ 258 := by
  have hsafe := safe_fetch hs hf
  unfold Safe at hsafe
  rw [h] at hsafe
  obtain ⟨-, hflow, -⟩ := hsafe
  exact outputCost_le (controlOk_congr hflow.control hc) ((nextFormat_congr hflow.control).trans hf)

/-- An element after which the engine still runs has consumed a bit. -/
theorem runElement_bits {s t : State} (h : runElement s = .next t) (hb : t.status.busy = true) : bitsLeft t < bitsLeft s := by
  unfold runElement at h
  cases hm : fetch s with
  | ok i u =>
    rw [hm] at h
    have hframe := exec_frame h
    have hle : bitsLeft t ≤ bitsLeft u := by
      rw [bitsLeft_eq, bitsLeft_eq, hframe.regs]
      exact Nat.sub_le_sub_left hframe.cursor _
    exact hle.trans_lt (fetch_earned hm).bits
  | error e u =>
    rw [hm] at h
    cases e with
    | raised e => cases h; cases hb
    | fault g => cases h
    | refused r => cases h

/-- R169, R11: from a state of the invariant whose output cannot overflow, the engine takes a step, and has less to do. -/
theorem engineStep_progress {s : State} (h : MachineInv s) (hb : s.status.busy = true) (hB : outReach s < 2 ^ s.cfg.addrW) :
    ∃ t, engineStep s = .next t ∧ outReach t ≤ outReach s ∧ (t.status.busy = true → stepsLeft t < stepsLeft s) := by
  obtain ⟨hs, hc⟩ := machineInv_iff.1 h
  cases hd : sequenceDone s with
  | true =>
    obtain ⟨t, ht, hsp, hend⟩ := tables_step hb hd
    refine ⟨t, ht, hsp.reach, fun hbt => ?_⟩
    obtain ⟨hblk, hloop, -⟩ := (sequenceDone_iff s).1 hd
    rcases hend with ⟨-, -, hloop'⟩ | ⟨-, hbusy⟩
    · have := hsp.bits
      simp only [stepsLeft, hblk, hloop, hloop', and_self, if_true, reduceCtorEq, and_false, if_false]
      omega
    · rw [hbusy] at hbt
      cases hbt
  | false =>
    obtain ⟨f, hf⟩ := nextFormat_of_busy hc hb
    have hcost (i : Instr) (u : State) (hu : fetch s = .ok i u) : outReach u + outputCost u f ≤ outReach s := by
      have := (fetch_earned hu).reach
      have := fetch_outputCost_le hs hc hf hu
      omega
    have hl := runElement_lands hf le_rfl hcost
    have hok := runElement_ok h hb hd
    rw [engineStep_of_element hb hd]
    cases hrun : runElement s with
    | next t =>
      rw [hrun] at hl
      refine ⟨t, rfl, hl.1, fun hbt => ?_⟩
      have := runElement_bits hrun hbt
      unfold stepsLeft
      split <;> split <;> omega
    | fault g =>
      rw [hrun] at hl hok
      exact absurd (hl hok) (not_le.2 hB)
    | refused r =>
      rw [hrun] at hok
      exact hok.elim

/-- R150: an engine that is not BUSY has nothing to run. -/
theorem runEngine_idle (n : Nat) {s : State} (h : s.status.busy = false) : runEngine n s = .next s := by
  cases n <;> simp [runEngine, h]

/-- R169, R11: a run that has the steps it can need ends, in DONE or in ERROR. -/
theorem runEngine_ends (n : Nat) {s : State} (h : MachineInv s) (hb : s.status.busy = true) (hB : outReach s < 2 ^ s.cfg.addrW)
    (hn : stepsLeft s < n) : ∃ t, runEngine n s = .next t ∧ MachineInv t ∧ t.status.busy = false ∧
      (t.blk = .done ∨ t.blk = .error) ∧ outReach t ≤ outReach s := by
  induction n generalizing s with
  | zero => exact absurd hn (Nat.not_lt_zero _)
  | succ n ih =>
    obtain ⟨t, hstep, hreach, hless⟩ := engineStep_progress h hb hB
    have hrun : runEngine (n + 1) s = runEngine n t := by simp [runEngine, hb, hstep]
    have ht := engineStep_machineInv h hstep
    obtain ⟨-, -, -, -, -, hbusy⟩ := blockStateTransitions s t hb hstep
    rw [hrun]
    cases hbt : t.status.busy with
    | false => exact ⟨t, runEngine_idle n hbt, ht, hbt, hbusy.1 hbt, hreach⟩
    | true =>
      have hcfg := (engineStep_frame hstep).cfg
      have hlt := hless hbt
      obtain ⟨u, hu, hinv, hub, hend, hur⟩ := ih ht hbt (by rw [hcfg]; omega) (by omega)
      exact ⟨u, hu, hinv, hub, hend, hur.trans hreach⟩

/-- R220: a code that stands for a kind is the code of that kind. -/
theorem errCode_of_errOfCode {c : BitVec 3} {e : ErrKind} (h : errOfCode c = some e) : c = errCode e := by
  unfold errOfCode at h
  split at h <;> cases h <;> exact BitVec.eq_of_toNat_eq ‹_›

/-- R27, R150: STATUS at the end of a run. -/
theorem status_of_ended {t : State} (h : sessionOk t = true) (hend : t.blk = .done ∨ t.blk = .error) :
    t.status.done = true ∧ ((t.blk = .done ∧ t.status.errKind = 0) ∨ (t.blk = .error ∧ ∃ e, t.status.errKind = errCode e)) := by
  rcases hend with hblk | hblk
  · simp only [sessionOk, hblk, Bool.and_eq_true, decide_eq_true_eq] at h
    obtain ⟨⟨-, hdone⟩, herr⟩ := h
    exact ⟨hdone, .inl ⟨hblk, herr⟩⟩
  · simp only [sessionOk, hblk, Bool.and_eq_true] at h
    obtain ⟨⟨-, hdone⟩, herr⟩ := h
    obtain ⟨e, he⟩ := Option.isSome_iff_exists.1 herr
    exact ⟨hdone, .inr ⟨hblk, e, errCode_of_errOfCode he⟩⟩

/-- Settles O50: every step leaves less to do and nothing but what the bits of IN pay for. -/
theorem everyDecodeEnds : Obligations.EveryDecodeEnds := by
  intro s h hb ho hroom
  have hbits : bitsLeft (startActions s) ≤ 8 * s.regs.inLen := Nat.sub_le _ _
  have hreach : outReach (startActions s) ≤ s.outPos + 258 * (8 * s.regs.inLen) :=
    Nat.add_le_add_left (Nat.mul_le_mul_left _ hbits) _
  have hsteps : stepsLeft (startActions s) < stepBound (startActions s) := by
    simp only [stepsLeft, stepBound, startActions_blk, startActions_regs, reduceCtorEq, false_and, if_false]
    omega
  obtain ⟨t, hrun, hinv, hbt, hend, htr⟩ :=
    runEngine_ends _ (machineInv_startActions h) rfl (hreach.trans_lt hroom) hsteps
  obtain ⟨hin, hcur, hcap, hout, -, -⟩ := widthsOk_iff.1 (machineInv_iff.1 h).1.widths
  have hw : launchWidthOk s = true := by simp [launchWidthOk, hin, hcur, hcap, hout]
  have hdecode : runDecode s = .next t := by rw [runDecode_of_idle hb, hw, ho]; exact hrun
  obtain ⟨hdone, hkind⟩ := status_of_ended (machineInv_iff.1 hinv).2.session hend
  exact ⟨t, hdecode, hbt, hdone, (Nat.le_add_right _ _).trans (htr.trans hreach), hkind⟩

end Sys2Proof.Machine
end

section
/-! SUPPORT. The code-length elements of a dynamic block's header (spec R162 to R165). -/

namespace Sys2Proof.Machine

/-! ## Runs of lengths -/

/-- R163 to R165: a run within TOTAL. -/
theorem putRun_ok (c : BitVec 4) {r : Nat} {s : State} (hr : s.seq.lsI.toNat + r ≤ seqTotal s) (ht : seqTotal s ≤ 320) :
    ∃ v : Vector (BitVec 4) 320,
      putRun c r s = .ok () { s with seq := { lenSeq := v, lsI := BitVec.ofNat 9 (s.seq.lsI.toNat + r) } } ∧
      ∀ k, tabGet v k 0 = if s.seq.lsI.toNat ≤ k ∧ k < s.seq.lsI.toNat + r then c else tabGet s.seq.lenSeq k 0 := by
  obtain ⟨v, hrun, hv⟩ := putLengths_ok c r (s := s) (hr.trans ht)
  exact ⟨v, (bind_of_ok rfl).trans ((ite_apply_state ..).trans ((if_neg (not_lt.2 hr)).trans hrun)), hv⟩

/-- R163 to R165: a run past TOTAL. -/
theorem putRun_past (c : BitVec 4) {r : Nat} {s : State} (hr : seqTotal s < s.seq.lsI.toNat + r) :
    putRun c r s = .error (.raised .invalidBlockData) s :=
  (bind_of_ok rfl).trans ((ite_apply_state ..).trans (if_pos hr))

/-- R163 to R165: where LENSEQ holds the run and where it is as before. -/
theorem run_and_rest {v w : Vector (BitVec 4) 320} {c : BitVec 4} {i r : Nat}
    (h : ∀ k, tabGet v k 0 = if i ≤ k ∧ k < i + r then c else tabGet w k 0) :
    (∀ k, i ≤ k → k < i + r → tabGet v k 0 = c) ∧ ∀ k, k < i ∨ i + r ≤ k → tabGet v k 0 = tabGet w k 0 :=
  ⟨fun k h1 h2 => (h k).trans (if_pos ⟨h1, h2⟩), fun k hk => (h k).trans (if_neg (by omega))⟩

/-! ## The statements -/

/-- Settles O31: LENSEQ is written at LS_I and nowhere else. -/
theorem literalLengthIsStored : Obligations.LiteralLengthIsStored := by
  intro s c hc hi
  refine ⟨_, finish_of_ok rfl, rfl, ?_, fun k hk => (tabGet_tabSet ..).trans (if_neg fun h => hk h.1)⟩
  have hlt : c.toNat < 16 := of_decide_eq_true hc
  refine (congrArg BitVec.toNat ((tabGet_tabSet ..).trans (if_pos ⟨rfl, hi⟩))).trans ?_
  rw [BitVec.toNat_setWidth, Nat.mod_eq_of_lt hlt]

/-- Settles O32: the extra bits, then the check for a length before, then the run. -/
theorem repeatPreviousLength : Obligations.RepeatPreviousLength := by
  rintro s i r hread rfl rfl ht
  refine ⟨fun hi hr => ?_, fun hbad => ?_⟩
  · have hne : s.seq.lsI ≠ 0#9 := fun h => hi (by simp [h])
    obtain ⟨v, hrun, hv⟩ := putRun_ok (tabGet s.seq.lenSeq (s.seq.lsI.toNat - 1) 0) (s := { s with cur := advance s.cur 2 }) hr ht
    refine ⟨{ s with cur := advance s.cur 2, seq := { lenSeq := v, lsI := _ } }, finish_of_ok ?_, rfl, run_and_rest hv⟩
    refine (bind_of_ok (readLsb_ok hread)).trans ((bind_of_ok rfl).trans ((ite_apply_state ..).trans ?_))
    exact (if_neg hne).trans hrun
  · refine finish_of_raised ((bind_of_ok (readLsb_ok hread)).trans ((bind_of_ok rfl).trans ((ite_apply_state ..).trans ?_)))
    by_cases hz : s.seq.lsI = 0#9
    · exact if_pos hz
    · have hi : s.seq.lsI.toNat ≠ 0 := fun h => hz (BitVec.eq_of_toNat_eq h)
      exact (if_neg hz).trans (putRun_past _ (hbad.resolve_left hi))

/-- R164, R165: `n` extra bits, then the run of zeros whose length they give. -/
theorem repeatZero_run {n low : Nat} {s : State} (hread : readable s n) (ht : seqTotal s ≤ 320) :
    let r := low + fieldLsb s (bitPos s.cur) n
    let o := finish (readLsb n >>= fun x => putRun 0 (low + x)) s
    (s.seq.lsI.toNat + r ≤ seqTotal s → ∃ t, o = .next t ∧
      t = { s with cur := advance s.cur n, seq := { lenSeq := t.seq.lenSeq, lsI := BitVec.ofNat 9 (s.seq.lsI.toNat + r) } } ∧
      (∀ k, s.seq.lsI.toNat ≤ k → k < s.seq.lsI.toNat + r → tabGet t.seq.lenSeq k 0 = 0) ∧
      (∀ k, k < s.seq.lsI.toNat ∨ s.seq.lsI.toNat + r ≤ k → tabGet t.seq.lenSeq k 0 = tabGet s.seq.lenSeq k 0)) ∧
    (seqTotal s < s.seq.lsI.toNat + r → o = .next (enterError .invalidBlockData { s with cur := advance s.cur n })) := by
  refine ⟨fun hr => ?_, fun hr => ?_⟩
  · obtain ⟨v, hrun, hv⟩ := putRun_ok 0 (s := { s with cur := advance s.cur n }) hr ht
    exact ⟨_, finish_of_ok ((bind_of_ok (readLsb_ok hread)).trans hrun), rfl, run_and_rest hv⟩
  · exact finish_of_raised ((bind_of_ok (readLsb_ok hread)).trans (putRun_past 0 (s := { s with cur := advance s.cur n }) hr))

/-- Settles O33: both instructions are extra bits and a run of zeros. -/
theorem repeatZeroLength : Obligations.RepeatZeroLength := by
  intro s ins extra low i r hins hread hi hr ht
  subst hi hr
  rcases hins with ⟨rfl, rfl, rfl⟩ | ⟨rfl, rfl, rfl⟩
  · exact repeatZero_run hread ht
  · exact repeatZero_run hread ht

end Sys2Proof.Machine
end

section
/-! SUPPORT. The headers of the four block types (spec R153 to R161). -/

namespace Sys2Proof.Machine

/-- Settles O22: the three header bits are read by then, and the meaning reads and writes nothing more. -/
theorem reservedRaisesInvalidEncoding : Obligations.ReservedRaisesInvalidEncoding := fun _ _ =>
  finish_of_raised (bind_of_ok rfl)

/-! ## Fixed blocks -/

/-- R113: the fixed length of a literal/length symbol. -/
def fixedLlLen (k : Nat) : BitVec 4 := if k < 144 then 8 else if k < 256 then 9 else if k < 280 then 7 else 8

/-- R113: LL_LEN of a fixed block. -/
theorem tabGet_fixedLlLens {k : Nat} (hk : k < 288) :
    tabGet (tabOfList 288 (fixedLlLens.map (BitVec.ofNat 4)) 0) k 0 = fixedLlLen k := by
  have hall : fixedLlLens.map (BitVec.ofNat 4) = (List.range 288).map fixedLlLen := by decide +kernel
  rw [tabGet_tabOfList _ _ _ hk, hall, List.getD_eq_getElem _ _ (by simpa using hk), List.getElem_map, List.getElem_range]

/-- R114: D_LEN of a fixed block. -/
theorem tabGet_fixedDLens {k : Nat} (hk : k < 32) : tabGet (tabOfList 32 (fixedDLens.map (BitVec.ofNat 4)) 0) k 0 = 5 := by
  rw [tabGet_tabOfList _ _ _ hk, fixedDLens, List.map_replicate, List.getD_replicate (h := hk)]
  rfl

/-- Settles O20: the lengths are those of R113 and R114, and the tables of a fixed block are constants. -/
theorem fixedTakesTheFixedLengths : Obligations.FixedTakesTheFixedLengths := fun _ _ =>
  ⟨_, finish_of_ok (bind_of_ok rfl), rfl, fun _ => tabGet_fixedLlLens, fun _ => tabGet_fixedDLens, if_pos rfl, if_pos rfl⟩

end Sys2Proof.Machine
end

section
/-! SUPPORT. The header of a dynamic block (spec R158 to R161): its fields are read one after the other from the bits at the cursor. -/

namespace Sys2Proof.Machine

theorem finish_congr {m m' : M Unit} {s s' : State} (h : m s = m' s') : finish m s = finish m' s' := by
  unfold finish
  rw [h]

/-! ## Fields one after the other -/

/-- `u` reads the IN of `s`, `k` bits further on. -/
structure ReadsOn (s : State) (k : Nat) (u : State) : Prop where
  cfg : u.cfg = s.cfg
  regs : u.regs = s.regs
  inBuf : u.inBuf = s.inBuf
  cur : u.cur = advance s.cur k

theorem ReadsOn.readLsb_ok {s u : State} {k n : Nat} (h : ReadsOn s k u) (hr : readable s (k + n)) :
    readLsb n u = .ok (fieldLsb s (bitPos s.cur + k) n) { u with cur := advance s.cur (k + n) } := by
  have hu : readable u n := (readable_congr (s := { s with cur := advance s.cur k }) h.regs h.cfg h.cur).2 (readable_advance hr)
  rw [Machine.readLsb_ok hu, fieldLsb_congr h.inBuf, h.cur, bitPos_advance, advance_advance]

/-- R225: the end of IN is where it was, however far inside IN the cursor has gone. -/
theorem ReadsOn.endCursor {s u : State} {k : Nat} (h : ReadsOn s k u) (hk : k = 0 ∨ bitPos s.cur + k ≤ 8 * s.regs.inLen) :
    endCursor u = endCursor s := by
  unfold Machine.endCursor
  rw [h.regs, h.cur]
  by_cases h0 : k = 0
  · rw [h0, advance_zero]
  · have hin : s.cur.byteOff < s.regs.inLen := (byteOff_lt_iff ..).2 (by omega)
    rw [if_pos hin]
    split
    · rfl
    · rename_i hout
      rw [byteOff_lt_iff, bitPos_advance] at hout
      exact cursor_ext (by rw [bitPos_advance]; simp only [bitPos, BitVec.toNat_ofNat] at hout hk ⊢; omega)

theorem ReadsOn.readLsb_end {s u : State} {k n : Nat} (h : ReadsOn s k u) (hw : s.regs.inLen < 2 ^ s.cfg.addrW)
    (hk : k = 0 ∨ bitPos s.cur + k ≤ 8 * s.regs.inLen) (hn : n ≠ 0) (hend : 8 * s.regs.inLen < bitPos s.cur + (k + n)) :
    readLsb n u = .error (.raised .endOfInput) { u with cur := Machine.endCursor s } := by
  rw [Machine.readLsb_end (by rw [h.regs, h.cfg]; exact hw) hn (by rw [h.regs, h.cur, bitPos_advance]; omega), h.endCursor hk]

/-! ## The counts -/

/-- R151, R158: the state with HLIT, HDIST and HCLEN read. -/
def countsRead (b : Bool) (s : State) : State :=
  { s with
    cur := advance s.cur 14
    hdr := { s.hdr with
      bfinal := BitVec.ofNat 1 b.toNat
      btype := 2
      hlit := BitVec.ofNat 9 (fieldLsb s (bitPos s.cur) 5 + 257)
      hdist := BitVec.ofNat 6 (fieldLsb s (bitPos s.cur + 5) 5 + 1)
      hclen := BitVec.ofNat 5 (fieldLsb s (bitPos s.cur + 10) 4 + 4) }
    blk := .dynamicBlock }

/-- R159 to R161: what follows the counts. -/
def codeLengthTable (hclen : Nat) : M Unit := do
  readClLengths clclOrder hclen
  buildClTable
  startSequence

theorem ReadsOn.start {s u : State} (hcfg : u.cfg = s.cfg) (hregs : u.regs = s.regs) (hin : u.inBuf = s.inBuf) (hcur : u.cur = s.cur) :
    ReadsOn s 0 u :=
  ⟨hcfg, hregs, hin, hcur.trans (advance_zero _).symm⟩

/-- R158: the three counts. -/
theorem execDynamic_counts (b : Bool) {s : State} (hr : readable s 14) :
    execDynamic b s = finish (codeLengthTable (fieldLsb s (bitPos s.cur + 10) 4 + 4)) (countsRead b s) := by
  have hlit (u : State) (hu : ReadsOn s 0 u) := hu.readLsb_ok (n := 5) (readable_of_le hr (by decide))
  have hdist (u : State) (hu : ReadsOn s 5 u) := hu.readLsb_ok (n := 5) (readable_of_le hr (by decide))
  have hclen (u : State) (hu : ReadsOn s 10 u) := hu.readLsb_ok (n := 4) hr
  refine finish_congr ((bind_of_ok (modify_apply ..)).trans ((bind_of_ok (modify_apply ..)).trans ?_))
  refine (bind_of_ok (hlit _ (by exact .start rfl rfl rfl rfl))).trans ((bind_of_ok (modify_apply ..)).trans ?_)
  refine (bind_of_ok (hdist _ (by exact ⟨rfl, rfl, rfl, rfl⟩))).trans ((bind_of_ok (modify_apply ..)).trans ?_)
  exact (bind_of_ok (hclen _ (by exact ⟨rfl, rfl, rfl, rfl⟩))).trans (bind_of_ok (modify_apply ..))

/-! ## A header that IN cuts short -/

/-- R225: from `u` on, the header that began at `s` comes to the end of IN, with header registers and code-length lengths written. -/
def CutShort (s : State) (m : M Unit) (u : State) : Prop :=
  ∃ h v, m u = .error (.raised .endOfInput) { u with cur := endCursor s, hdr := h, cl := { u.cl with lens := v } }

theorem CutShort.bind {s u : State} {m : M Unit} {f : Unit → M Unit} (h : CutShort s m u) : CutShort s (m >>= f) u := by
  obtain ⟨hd, v, hm⟩ := h
  exact ⟨hd, v, bind_of_error hm⟩

/-- A field of a header that is cut short: it is cut itself, or the rest is. -/
theorem CutShort.field {s u : State} {k n : Nat} {f : Nat → M Unit} (h : ReadsOn s k u) (hw : s.regs.inLen < 2 ^ s.cfg.addrW)
    (hk : k = 0 ∨ bitPos s.cur + k ≤ 8 * s.regs.inLen) (hn : n ≠ 0)
    (hf : bitPos s.cur + (k + n) ≤ 8 * s.regs.inLen →
      CutShort s (f (fieldLsb s (bitPos s.cur + k) n)) { u with cur := advance s.cur (k + n) }) :
    CutShort s (readLsb n >>= f) u := by
  by_cases hin : bitPos s.cur + (k + n) ≤ 8 * s.regs.inLen
  · obtain ⟨hd, v, hm⟩ := hf hin
    exact ⟨hd, v, (bind_of_ok (h.readLsb_ok ⟨hw, .inr hin⟩)).trans hm⟩
  · exact ⟨u.hdr, u.cl.lens, bind_of_error (h.readLsb_end hw hk hn (not_le.1 hin))⟩

/-- A register of the header is written on the way. -/
theorem CutShort.latch {s u : State} {g : State → State} {f : PUnit → M Unit} {h0 : BlockRegs} (hg : g u = { u with hdr := h0 })
    (hf : CutShort s (f ⟨⟩) (g u)) : CutShort s (modify g >>= f) u := by
  obtain ⟨hd, v, hm⟩ := hf
  refine ⟨hd, v, (bind_of_ok rfl).trans (hm.trans ?_)⟩
  rw [hg]

/-- The end of IN is an error of the element (R227). -/
theorem CutShort.finish {s s' u : State} {m m' : M Unit} (hm : m' s' = m u) (h : CutShort s m u) :
    ∃ hd v, finish m' s' = .next (enterError .endOfInput { u with cur := endCursor s, hdr := hd, cl := { u.cl with lens := v } }) := by
  obtain ⟨hd, v, hr⟩ := h
  exact ⟨hd, v, finish_of_raised (hm.trans hr)⟩

/-- R159: the code-length lengths of a header that ends among them. -/
theorem CutShort.readClLengths {s : State} (hw : s.regs.inLen < 2 ^ s.cfg.addrW) (order : List Nat) (n : Nat) {k : Nat} {u : State}
    (h : ReadsOn s k u) (hk : bitPos s.cur + k ≤ 8 * s.regs.inLen)
    (hend : 8 * s.regs.inLen < bitPos s.cur + k + 3 * min n order.length) : CutShort s (readClLengths order n) u := by
  induction order generalizing n k u with
  | nil => simp only [List.length_nil, Nat.min_zero] at hend; omega
  | cons p order ih =>
    cases n with
    | zero => simp only [Nat.zero_min] at hend; omega
    | succ n =>
      refine .field h hw (.inr hk) (by simp) fun hin => ?_
      obtain ⟨hd, v, hm⟩ := ih n (u := { u with
          cur := advance s.cur (k + 3)
          cl := { u.cl with lens := tabSet u.cl.lens p (BitVec.ofNat 3 (fieldLsb s (bitPos s.cur + k) 3)) } })
        ⟨h.cfg, h.regs, h.inBuf, rfl⟩ hin (by rw [List.length_cons] at hend; omega)
      exact ⟨hd, v, (bind_of_ok rfl).trans hm⟩

/-- R158, R159, R225: a header that ends before its last code-length length. -/
theorem execDynamic_end (b : Bool) {s : State} (hw : s.regs.inLen < 2 ^ s.cfg.addrW)
    (hend : 8 * s.regs.inLen < bitPos s.cur + 14 + 3 * (fieldLsb s (bitPos s.cur + 10) 4 + 4)) :
    ∃ h v, execDynamic b s = .next (enterError .endOfInput
      { s with cur := endCursor s, hdr := h, blk := .dynamicBlock, cl := { s.cl with lens := v } }) := by
  have hf3 := fieldLsb_lt s (bitPos s.cur + 10) 4
  refine CutShort.finish (u := { s with hdr := { s.hdr with bfinal := BitVec.ofNat 1 b.toNat, btype := 2 }, blk := .dynamicBlock })
    ((bind_of_ok rfl).trans (bind_of_ok rfl)) ?_
  refine .field (n := 5) (.start rfl rfl rfl rfl) hw (.inl rfl) (by decide) fun h5 => .latch rfl ?_
  refine .field (n := 5) ⟨rfl, rfl, rfl, rfl⟩ hw (.inr h5) (by decide) fun h10 => .latch rfl ?_
  refine .field (n := 4) ⟨rfl, rfl, rfl, rfl⟩ hw (.inr h10) (by decide) fun h14 => .latch rfl (.bind ?_)
  refine .readClLengths hw clclOrder _ ⟨rfl, rfl, rfl, rfl⟩ h14 ?_
  have hmin : min (fieldLsb s (bitPos s.cur + 10) 4 + 4) clclOrder.length = fieldLsb s (bitPos s.cur + 10) 4 + 4 :=
    Nat.min_eq_left (by show _ ≤ 19; omega)
  show _ < _ + 14 + 3 * min (fieldLsb s (bitPos s.cur + 10) 4 + 4) clclOrder.length
  rwa [hmin]

/-! ## A header that IN holds -/

theorem clclOrder_nodup : clclOrder.Nodup := by decide

theorem clclOrder_lt : ∀ p ∈ clclOrder, p < 19 := by decide

/-- R161: LENSEQ cleared below TOTAL. -/
theorem tabGet_cleared (v : Vector (BitVec 4) 320) (n : Nat) {k : Nat} (hk : k < 320) :
    tabGet (tabOfList 320 (List.replicate n 0 ++ v.toList.drop n) 0) k 0 = if k < n then 0 else tabGet v k 0 := by
  rw [tabGet_tabOfList _ _ _ hk]
  split
  · rename_i h
    rw [List.getD_append _ _ _ _ (by simpa using h), List.getD_replicate (h := h)]
  · rename_i h
    rw [List.getD_append_right _ _ _ _ (by simpa using h), List.length_replicate, tabGet, List.getD_eq_getElem?_getD,
      List.getElem?_drop, List.getD_eq_getElem?_getD, Nat.add_sub_cancel' (not_lt.1 h)]

/-- R160: the code-length table. -/
theorem buildClTable_ok {s : State} (h : (buildTable 7 s.cl s.scratch).ok = true) :
    buildClTable s = .ok () { s with cl := (buildTable 7 s.cl s.scratch).huff, scratch := (buildTable 7 s.cl s.scratch).scratch } :=
  (bind_of_ok rfl).trans ((bind_of_ok rfl).trans ((ite_apply_state ..).trans (if_pos h)))

theorem buildClTable_fail {s : State} (h : (buildTable 7 s.cl s.scratch).ok = false) :
    buildClTable s = .error (.raised .oversubscribedCode)
      { s with cl := (buildTable 7 s.cl s.scratch).huff, scratch := (buildTable 7 s.cl s.scratch).scratch } :=
  (bind_of_ok rfl).trans ((bind_of_ok rfl).trans ((ite_apply_state ..).trans (if_neg (by simp [h]))))

/-- R158, R161: TOTAL from the two fields of the header. -/
theorem seqTotal_of_fields {s : State} {f g : Nat} (hf : f < 2 ^ 5) (hg : g < 2 ^ 5) (hl : s.hdr.hlit = BitVec.ofNat 9 (f + 257))
    (hd : s.hdr.hdist = BitVec.ofNat 6 (g + 1)) : seqTotal s = f + 257 + (g + 1) := by
  rw [seqTotal, hl, hd, BitVec.toNat_ofNat, BitVec.toNat_ofNat, Nat.mod_eq_of_lt (by omega), Nat.mod_eq_of_lt (by omega)]

/-- R159: the state with the code-length lengths read. -/
def lengthsRead (b : Bool) (v : Vector (BitVec 3) 19) (s : State) : State :=
  { countsRead b s with
    cur := advance s.cur (14 + 3 * (fieldLsb s (bitPos s.cur + 10) 4 + 4))
    cl := { s.cl with lens := v } }

/-- R158, R159: a header that IN holds, up to its table. -/
theorem execDynamic_lengths (b : Bool) {s : State} (hr : readable s (14 + 3 * (fieldLsb s (bitPos s.cur + 10) 4 + 4))) :
    ∃ v, execDynamic b s = finish (buildClTable >>= fun _ => startSequence) (lengthsRead b v s) ∧
      ∀ j, j < 19 → tabGet v (clclOrder.getD j 0) 0 =
        BitVec.ofNat 3 (if j < fieldLsb s (bitPos s.cur + 10) 4 + 4 then fieldLsb s (bitPos s.cur + 14 + 3 * j) 3 else 0) := by
  have hf3 := fieldLsb_lt s (bitPos s.cur + 10) 4
  have hmin : min (fieldLsb s (bitPos s.cur + 10) 4 + 4) clclOrder.length = fieldLsb s (bitPos s.cur + 10) 4 + 4 :=
    Nat.min_eq_left (by show _ ≤ 19; omega)
  obtain ⟨v, hrun, hv, -⟩ := readClLengths_ok clclOrder clclOrder_nodup clclOrder_lt
    (fieldLsb s (bitPos s.cur + 10) 4 + 4) (countsRead b s) (by rw [hmin]; exact readable_advance hr)
  refine ⟨v, (execDynamic_counts b (readable_of_le hr (by omega))).trans (finish_congr ((bind_of_ok hrun).trans ?_)), fun j hj => ?_⟩
  · rw [hmin, lengthsRead, ← advance_advance]
    rfl
  · have hpos : bitPos (countsRead b s).cur = bitPos s.cur + 14 := bitPos_advance _ _
    rw [hv j hj, hpos, fieldLsb_congr (s := s) (t := countsRead b s) rfl]

/-- Settles O21: the fields are read one after the other, and the table is built from the lengths in the order of R112. -/
theorem dynamicReadsItsHeader : Obligations.DynamicReadsItsHeader := by
  rintro s b p f1 f2 f3 rfl rfl rfl rfl hw
  refine ⟨fun hr => ?_, fun hend => ?_⟩
  · obtain ⟨v, hrun, hv⟩ := execDynamic_lengths b hr
    have htotal : seqTotal (lengthsRead b v s) = fieldLsb s (bitPos s.cur) 5 + 257 + (fieldLsb s (bitPos s.cur + 5) 5 + 1) :=
      seqTotal_of_fields (fieldLsb_lt ..) (fieldLsb_lt ..) rfl rfl
    refine ⟨v, hv, fun hok => ?_, fun hfail => ?_⟩
    · have hbuild := buildClTable_ok (s := lengthsRead b v s) hok
      refine ⟨_, hrun.trans (finish_of_ok ((bind_of_ok hbuild).trans (modify_apply ..))), rfl, fun k hk => ?_⟩
      refine (tabGet_cleared _ _ hk).trans ?_
      show (if k < seqTotal (lengthsRead b v s) then _ else _) = _
      rw [htotal]
      rfl
    · exact hrun.trans (finish_of_raised (bind_of_error (buildClTable_fail (s := lengthsRead b v s) hfail)))
  · obtain ⟨h, v, hrun⟩ := execDynamic_end b hw hend
    exact ⟨_, hrun, rfl⟩
end Sys2Proof.Machine
end

section
/-! SUPPORT. Stored blocks (spec R154 to R156, R167, R195): the two length fields, the data, and the three ways in which a stored block
fails. -/

namespace Sys2Proof.Machine

/-! ## The length fields -/

/-- R105, R225: two bytes that IN does not hold. -/
theorem readLe16_end {s : State} (h0 : s.cur.bitOff = 0#3) (hw : s.regs.inLen < 2 ^ s.cfg.addrW) (h : s.regs.inLen < s.cur.byteOff + 2) :
    readLe16 s = .error (.raised .endOfInput) { s with cur := { byteOff := max s.cur.byteOff s.regs.inLen, bitOff := 0#3 } } := by
  by_cases hl : s.cur.byteOff < s.regs.inLen
  · have hmax : max s.cur.byteOff s.regs.inLen = s.cur.byteOff + 1 := by omega
    rw [hmax]
    exact (bind_of_ok (readByte_ok hl hw)).trans (bind_of_error (readByte_end (by show s.regs.inLen ≤ s.cur.byteOff + 1; omega)))
  · have hcur : s.cur = { byteOff := max s.cur.byteOff s.regs.inLen, bitOff := 0#3 } := by
      rw [max_eq_left (not_lt.1 hl), ← h0]
    rw [← hcur]
    exact bind_of_error (readByte_end (not_lt.1 hl))

/-- R154, R155: the state of a stored block with LEN and NLEN read. -/
def fieldsRead (b : Bool) (s : State) : State :=
  { s with
    cur := { byteOff := alignedOff s.cur + 4, bitOff := 0#3 }
    blk := .storedBlock
    hdr := { s.hdr with
      bfinal := BitVec.ofNat 1 b.toNat
      btype := 0
      lenR := BitVec.ofNat 16 (le16 s (alignedOff s.cur))
      nlenR := BitVec.ofNat 16 (le16 s (alignedOff s.cur + 2)) } }

/-- R154, R155: a stored block whose length fields IN holds. -/
theorem execStored_fields (b : Bool) {s : State} (hw : s.regs.inLen < 2 ^ s.cfg.addrW) (hi : alignedOff s.cur + 4 ≤ s.regs.inLen) :
    execStored b s = finish (storedBody >>= fun _ => endOfBlock) (fieldsRead b s) := by
  have ha : alignedOff s.cur < 2 ^ s.cfg.addrW := by omega
  have hlen : alignedOff s.cur + 2 ≤ s.regs.inLen := by omega
  refine finish_congr ((bind_of_ok (modify_apply ..)).trans ((bind_of_ok (modify_apply ..)).trans ?_))
  refine (bind_of_ok (alignToByte_ok (by exact ha))).trans ?_
  refine (bind_of_ok (readLe16_ok (by exact hlen) (by exact hw))).trans ((bind_of_ok (modify_apply ..)).trans ?_)
  exact (bind_of_ok (readLe16_ok (by exact hi) (by exact hw))).trans (bind_of_ok (modify_apply ..))

/-- R155, R225: a stored block whose length fields IN cuts short. -/
theorem execStored_fields_end (b : Bool) {s : State} (hw : s.regs.inLen < 2 ^ s.cfg.addrW) (ha : alignedOff s.cur < 2 ^ s.cfg.addrW)
    (hi : s.regs.inLen < alignedOff s.cur + 4) :
    execStored b s = .next (enterError .endOfInput { s with
      cur := { byteOff := max (alignedOff s.cur) s.regs.inLen, bitOff := 0 }
      hdr := { s.hdr with
        bfinal := BitVec.ofNat 1 b.toNat
        btype := 0
        lenR := if alignedOff s.cur + 2 ≤ s.regs.inLen then BitVec.ofNat 16 (le16 s (alignedOff s.cur)) else s.hdr.lenR }
      blk := .storedBlock }) := by
  refine finish_of_raised ((bind_of_ok (modify_apply ..)).trans ((bind_of_ok (modify_apply ..)).trans ?_))
  refine (bind_of_ok (alignToByte_ok (by exact ha))).trans ?_
  by_cases hlen : alignedOff s.cur + 2 ≤ s.regs.inLen
  · have hmax : max (alignedOff s.cur) s.regs.inLen = max (alignedOff s.cur + 2) s.regs.inLen := by omega
    rw [if_pos hlen, hmax]
    refine (bind_of_ok (readLe16_ok (by exact hlen) (by exact hw))).trans ((bind_of_ok (modify_apply ..)).trans ?_)
    exact bind_of_error (readLe16_end rfl (by exact hw) (by exact hi))
  · rw [if_neg hlen]
    exact bind_of_error (readLe16_end rfl (by exact hw) (by exact not_le.1 hlen))

/-! ## The body -/

theorem fieldsRead_lens (b : Bool) (s : State) : (fieldsRead b s).hdr.lenR.toNat = le16 s (alignedOff s.cur) ∧
    (fieldsRead b s).hdr.nlenR.toNat = le16 s (alignedOff s.cur + 2) :=
  ⟨Nat.mod_eq_of_lt (le16_lt s _), Nat.mod_eq_of_lt (le16_lt s _)⟩

/-- R155: a complement that does not match. -/
theorem storedBody_mismatch {s : State} (h : s.hdr.lenR.toNat + s.hdr.nlenR.toNat ≠ 0xFFFF) :
    storedBody s = .error (.raised .invalidBlockLength) s :=
  (bind_of_ok rfl).trans ((ite_apply_state ..).trans (if_pos h))

/-- R156: the data, once the complement matches. -/
theorem storedBody_eq {s : State} (h : s.hdr.lenR.toNat + s.hdr.nlenR.toNat = 0xFFFF) :
    storedBody s = storedBytes s.hdr.lenR.toNat (withCopyLeft s.hdr.lenR.toNat s) :=
  (bind_of_ok rfl).trans ((ite_apply_state ..).trans ((if_neg (not_not.2 h)).trans (bind_of_ok rfl)))

/-- R156, R195: `m` is OUT of `s` with the `n` bytes of IN from the cursor on copied to OUT_POS, as far as OUT_CAP lets them. -/
def Copied (s : State) (n : Nat) (m : Memory) : Prop :=
  ∀ o, m.read o = if s.outPos ≤ o ∧ o < s.outPos + n ∧ o < s.regs.outCap
    then s.inBuf.read (s.cur.byteOff + (o - s.outPos)) else s.outBuf.read o

theorem Copied.read_copy {s : State} {n : Nat} {m : Memory} (h : Copied s n m) {k : Nat} (hk : k < n) (hc : s.outPos + k < s.regs.outCap) :
    m.read (s.outPos + k) = s.inBuf.read (s.cur.byteOff + k) := by
  rw [h, if_pos (by omega), Nat.add_sub_cancel_left]

theorem Copied.read_other {s : State} {n : Nat} {m : Memory} (h : Copied s n m) {o : Nat}
    (ho : o < s.outPos ∨ s.outPos + n ≤ o ∨ s.regs.outCap ≤ o) : m.read o = s.outBuf.read o := by
  rw [h, if_neg (by omega)]

/-- The state after one byte of stored data, with `n` bytes to go. -/
def afterStored (n : Nat) (s : State) : State :=
  withCopyLeft n (afterSink (s.inBuf.read s.cur.byteOff) { s with cur := { byteOff := s.cur.byteOff + 1, bitOff := 0#3 } })

@[simp] theorem afterStored_cfg (n : Nat) (s : State) : (afterStored n s).cfg = s.cfg := by rw [afterStored, afterSink_eq]; rfl

@[simp] theorem afterStored_regs (n : Nat) (s : State) : (afterStored n s).regs = s.regs := by rw [afterStored, afterSink_eq]; rfl

@[simp] theorem afterStored_inBuf (n : Nat) (s : State) : (afterStored n s).inBuf = s.inBuf := by rw [afterStored, afterSink_eq]; rfl

@[simp] theorem afterStored_outPos (n : Nat) (s : State) : (afterStored n s).outPos = s.outPos + 1 := by
  rw [afterStored, afterSink_eq]; rfl

@[simp] theorem afterStored_cur (n : Nat) (s : State) :
    (afterStored n s).cur = { byteOff := s.cur.byteOff + 1, bitOff := 0#3 } := by
  rw [afterStored, afterSink_eq]; rfl

theorem afterStored_wf (n : Nat) {s : State} (w : s.outBuf.wf = true) : (afterStored n s).outBuf.wf = true :=
  afterSink_wf (s := { s with cur := _ }) w

/-- A byte stored, then `k` more. -/
theorem Copied.succ {s : State} {n k : Nat} {m : Memory} (w : s.outBuf.wf = true) (h : Copied (afterStored n s) k m) :
    Copied s (k + 1) m := by
  intro o
  have hfirst : (afterStored n s).outBuf.read o =
      if o = s.outPos ∧ s.outPos < s.regs.outCap then s.inBuf.read s.cur.byteOff else s.outBuf.read o :=
    afterSink_read (s := { s with cur := { byteOff := s.cur.byteOff + 1, bitOff := 0#3 } }) _ w o
  rw [h o, hfirst, afterStored_outPos, afterStored_regs, afterStored_inBuf, afterStored_cur]
  by_cases ho : o = s.outPos
  · subst ho
    rw [if_neg (by omega), Nat.sub_self, Nat.add_zero]
    exact if_congr (by omega) rfl rfl
  · rw [if_neg (c := o = s.outPos ∧ _) fun hc => ho hc.1]
    exact ite_congr (propext (by omega)) (fun hc => by congr 1; dsimp only; omega) fun _ => rfl

/-- R156: one byte of stored data. -/
theorem storedBytes_succ (n : Nat) {s : State} (hi : s.cur.byteOff < s.regs.inLen) (hw : s.regs.inLen < 2 ^ s.cfg.addrW)
    (hroom : s.outPos + 1 < 2 ^ s.cfg.addrW) : storedBytes (n + 1) s = storedBytes n (afterStored n s) :=
  (bind_of_ok (readByte_ok hi hw)).trans ((bind_of_ok (sinkWrite_ok _ (by exact hroom))).trans (bind_of_ok rfl))

/-- R156, R225: stored data that IN cuts short: the bytes before the end of IN are written. -/
theorem storedBytes_end (n : Nat) {s : State} (h0 : s.cur.bitOff = 0#3) (hi : s.cur.byteOff ≤ s.regs.inLen)
    (hn : s.regs.inLen < s.cur.byteOff + n) (hw : s.regs.inLen < 2 ^ s.cfg.addrW)
    (hroom : s.outPos + (s.regs.inLen - s.cur.byteOff) < 2 ^ s.cfg.addrW) (w : s.outBuf.wf = true) :
    ∃ t, storedBytes n s = .error (.raised .endOfInput) t ∧ t.cur = { byteOff := s.regs.inLen, bitOff := 0#3 } ∧
      t.outPos = s.outPos + (s.regs.inLen - s.cur.byteOff) ∧ Copied s (s.regs.inLen - s.cur.byteOff) t.outBuf := by
  induction n generalizing s with
  | zero => omega
  | succ n ih =>
    by_cases hl : s.cur.byteOff < s.regs.inLen
    · have hleft : s.regs.inLen - s.cur.byteOff = s.regs.inLen - (s.cur.byteOff + 1) + 1 := by omega
      obtain ⟨t, hrun, hcur, hpos, hcopy⟩ := ih (s := afterStored n s) (by simp) (by simpa using hl) (by simp; omega) (by simpa using hw)
        (by simp; omega) (afterStored_wf n w)
      simp only [afterStored_regs, afterStored_cur, afterStored_outPos] at hcur hpos hcopy
      exact ⟨t, (storedBytes_succ n hl hw (by omega)).trans hrun, hcur, by omega, hleft ▸ hcopy.succ w⟩
    · have heq : s.cur.byteOff = s.regs.inLen := by omega
      refine ⟨s, bind_of_error (readByte_end heq.ge), ?_, by omega, fun o => ?_⟩
      · rw [← heq, ← h0]
      · rw [if_neg (by omega)]

/-- R156: the body of a stored block whose data IN holds. -/
theorem storedBody_ok {s : State} (hc : s.hdr.lenR.toNat + s.hdr.nlenR.toNat = 0xFFFF) (h0 : s.cur.bitOff = 0#3)
    (hi : s.cur.byteOff + s.hdr.lenR.toNat ≤ s.regs.inLen) (hw : s.regs.inLen < 2 ^ s.cfg.addrW)
    (hroom : s.outPos + s.hdr.lenR.toNat < 2 ^ s.cfg.addrW) (w : s.outBuf.wf = true) :
    ∃ buf, storedBody s = .ok () { withCopyLeft 0 (afterSinks s.hdr.lenR.toNat buf s) with
        cur := { byteOff := s.cur.byteOff + s.hdr.lenR.toNat, bitOff := 0#3 } } ∧ Copied s s.hdr.lenR.toNat buf := by
  obtain ⟨buf, hrun, hnone, -, hread⟩ := storedBytes_ok s.hdr.lenR.toNat (s := withCopyLeft s.hdr.lenR.toNat s) h0 hi hw hroom w
  refine ⟨buf, (storedBody_eq hc).trans (hrun.trans ?_), hread⟩
  by_cases hn : s.hdr.lenR.toNat = 0
  · have hcur : s.cur = { byteOff := s.cur.byteOff + 0, bitOff := 0#3 } := by rw [Nat.add_zero, ← h0]
    rw [if_pos hn, hnone hn, hn]
    show _ = EStateM.Result.ok () { withCopyLeft 0 (afterSinks 0 s.outBuf s) with
      cur := { byteOff := s.cur.byteOff + 0, bitOff := 0#3 } }
    rw [afterSinks_zero, ← hcur]
    rfl
  · rw [if_neg hn]
    rfl

/-- R167: the end of a block whose header gave `b` for BFINAL. -/
theorem endOfBlock_eq (b : Bool) {s : State} (h : s.hdr.bfinal = BitVec.ofNat 1 b.toNat) :
    endOfBlock s = .ok () { s with
      blk := if b then .done else .readBlockHeader
      status := { s.status with busy := s.status.busy && !b, done := s.status.done || b } } := by
  refine (modify_apply ..).trans ?_
  rw [h]
  cases b <;> simp [completeSuccess]

/-- R191: TRUNCATED after `n` bytes. -/
theorem decide_dropped (s : State) (n : Nat) :
    decide (0 < n ∧ s.regs.outCap < s.outPos + n) = dropsBetween s s.outPos (s.outPos + n) := by
  rw [dropsBetween, Bool.decide_and]
  congr 1
  exact decide_eq_decide.2 (by omega)

/-! ## The statements -/

/-- Settles O19: the fields are cut, or do not match, or the data is cut after the bytes that IN still holds. -/
theorem storedBlockErrors : Obligations.StoredBlockErrors := by
  intro s b a len nlen ha hlen hnlen w hw haw
  subst ha hlen hnlen
  obtain ⟨hl, hnl⟩ := fieldsRead_lens b s
  refine ⟨fun hi hne => ?_, fun hi heq hend hroom => ?_, fun hi => execStored_fields_end b hw haw hi⟩
  · refine (execStored_fields b hw hi).trans (finish_of_raised (bind_of_error (storedBody_mismatch ?_)))
    rwa [hl, hnl]
  · obtain ⟨t, ht, hcur, hpos, hcopy⟩ := storedBytes_end (le16 s (alignedOff s.cur))
      (s := withCopyLeft (le16 s (alignedOff s.cur)) (fieldsRead b s)) rfl hi hend hw hroom w
    have hbody : storedBody (fieldsRead b s) = .error (.raised .endOfInput) t := by
      rw [storedBody_eq (by rw [hl, hnl, heq]), hl, ht]
    refine ⟨_, (execStored_fields b hw hi).trans (finish_of_raised (bind_of_error hbody)), rfl, rfl, hcur, hpos,
      fun k hk => hcopy.read_copy (Nat.lt_sub_of_add_lt (by rwa [Nat.add_comm])), fun o ho => hcopy.read_other ?_⟩
    rw [← hpos]
    exact ho

/-- Settles O18: the fields, the data and the end of the block, one after the other. -/
theorem storedCopiesItsBytes : Obligations.StoredCopiesItsBytes := by
  intro s b a len ha hlen w hw hi heq hroom
  subst ha hlen
  obtain ⟨hl, hnl⟩ := fieldsRead_lens b s
  obtain ⟨buf, hrun, hcopy⟩ := storedBody_ok (s := fieldsRead b s) (by rw [hl, hnl, heq]) rfl (by rw [hl]; exact hi) hw
    (by rw [hl]; exact hroom) w
  rw [hl] at hrun hcopy
  refine ⟨_, (execStored_fields b hw (by omega)).trans (finish_of_ok ((bind_of_ok hrun).trans (endOfBlock_eq b rfl))), ?_,
    fun k hk => hcopy.read_copy hk, fun o ho => hcopy.read_other ho⟩
  rw [← decide_dropped]
  rfl

end Sys2Proof.Machine
end

section
/-! SUPPORT. The elements of the symbol loop (spec R180 to R188): a literal, the end of a block, and the two parts of a COPY. -/

namespace Sys2Proof.Machine

/-! ## Literals and the end of a block -/

/-- R180: SYM takes the symbol of a literal. -/
theorem latchSym_toNat (b : BitVec 9) (s : State) :
    latchSym b.toNat s = .ok ⟨⟩ { s with syms := { s.syms with sym := b } } := by
  rw [latchSym, modify_apply, BitVec.ofNat_toNat, BitVec.setWidth_eq]

/-- R181: a literal's byte goes to the sink. -/
theorem execLit_afterSink (b : BitVec 9) {s : State} (hroom : s.outPos + 1 < 2 ^ s.cfg.addrW) :
    execLit b s = .next (afterSink (b.setWidth 8) { s with syms := { s.syms with sym := b } }) :=
  finish_of_ok ((bind_of_ok (latchSym_toNat b s)).trans (sinkWrite_ok _ hroom))

/-- Settles O23: the one byte is written below OUT_CAP and counted as dropped past it. -/
theorem literalIsOneSinkWrite : Obligations.LiteralIsOneSinkWrite := by
  intro s b hb w hroom
  have hlt : b.toNat < 2 ^ 8 := of_decide_eq_true hb
  refine ⟨fun hcap => ?_, fun hcap => (execLit_afterSink b hroom).trans (congrArg _ (if_neg (not_lt.2 hcap)))⟩
  refine ⟨_, (execLit_afterSink b hroom).trans (congrArg _ (if_pos hcap)), rfl, ?_, fun o ho => ?_⟩
  · rw [Memory.read_write w, if_pos rfl, BitVec.toNat_setWidth, Nat.mod_eq_of_lt hlt]
  · rw [Memory.read_write w, if_neg ho]

/-- R182: the end of a block whose header gave `b` for BFINAL. -/
theorem execEob_eq (b : Bool) {s : State} (h : s.hdr.bfinal = BitVec.ofNat 1 b.toNat) :
    execEob s = .next { s with
      syms := { s.syms with sym := 256 }
      blk := if b then .done else .readBlockHeader
      status := { s.status with busy := s.status.busy && !b, done := s.status.done || b } } :=
  finish_of_ok ((bind_of_ok (modify_apply ..)).trans (endOfBlock_eq b h))

/-- Settles O24: BFINAL_L decides how the block ends. -/
theorem endOfBlockEndsOrReturns : Obligations.EndOfBlockEndsOrReturns := fun s =>
  ⟨fun h => (execEob_eq true h).trans (by simp), fun h => (execEob_eq false h).trans (by simp)⟩

/-! ## The length part of a COPY -/

/-- R110: a row of the spec's table is the length symbol of its place, with the extra bits and the base of the model's tables. -/
theorem lengthRows_meaning {j : Nat} {i : Instr} {extra base : Nat} (h : lengthRows[j]? = some (i, extra, base)) :
    j ≤ 28 ∧ exec i = finish (copyLength j) ∧ extra = lenExtra.getD j 0 ∧ base = lenBase.getD j 0 := by
  have hj : j < 29 := (List.getElem?_eq_some_iff.1 h).1
  refine ⟨by omega, ?_⟩
  interval_cases j <;> (cases h; exact ⟨rfl, rfl, rfl⟩)

/-- R184: a literal/length symbol past the table. -/
theorem copyLength_invalid {j : Nat} (hj : 28 < j) (s : State) :
    copyLength j s = .error (.raised .invalidBlockData) { s with syms := { s.syms with sym := BitVec.ofNat 9 (257 + j) } } :=
  (bind_of_ok (modify_apply ..)).trans ((ite_apply_state ..).trans (if_pos hj))

/-- R183, R225: a length symbol whose extra bits IN cuts short. -/
theorem copyLength_end {j : Nat} (hj : j ≤ 28) {s : State} (hw : s.regs.inLen < 2 ^ s.cfg.addrW) (hn : lenExtra.getD j 0 ≠ 0)
    (hend : 8 * s.regs.inLen < bitPos s.cur + lenExtra.getD j 0) :
    copyLength j s = .error (.raised .endOfInput)
      { s with cur := endCursor s, syms := { s.syms with sym := BitVec.ofNat 9 (257 + j) } } := by
  refine (bind_of_ok (modify_apply ..)).trans ((ite_apply_state ..).trans ((if_neg (not_lt.2 hj)).trans ?_))
  exact bind_of_error (readLsb_end (by exact hw) hn hend)

/-- Settles O25: the length part of a COPY with the extra bits and the base of the symbol's row. -/
theorem lengthSymbolsSetMlen : Obligations.LengthSymbolsSetMlen := by
  rintro s j i extra base x hrow hr rfl
  obtain ⟨hj, hexec, rfl, rfl⟩ := lengthRows_meaning hrow
  obtain ⟨hlow, hhigh⟩ := mlenOf_range hj (fieldLsb_lt s (bitPos s.cur) _)
  exact ⟨hlow, hhigh, (congrFun hexec s).trans (finish_of_ok (copyLength_ok hj hr))⟩

/-- Settles O26: both symbols are past the table. -/
theorem invalidLitlenSymbolsRaise : Obligations.InvalidLitlenSymbolsRaise := fun s =>
  ⟨finish_of_raised (copyLength_invalid (j := 29) (by decide) s), finish_of_raised (copyLength_invalid (j := 30) (by decide) s)⟩

/-! ## The distance part of a COPY -/

/-- R111: the distances of a COPY. -/
theorem mdistOf_range {k x : Nat} (hk : k ≤ 29) (hx : x < 2 ^ distExtra.getD k 0) : 1 ≤ mdistOf k x ∧ mdistOf k x ≤ 32768 := by
  have hrow : ∀ k < 30, 1 ≤ distBase.getD k 0 ∧ distBase.getD k 0 + 2 ^ distExtra.getD k 0 ≤ 32769 := by decide
  have := hrow k (by omega)
  unfold mdistOf
  omega

/-- R186: a distance symbol past the table. -/
theorem copyDistance_invalid {k : Nat} (hk : 29 < k) (s : State) :
    copyDistance k s = .error (.raised .invalidBlockData) { s with syms := { s.syms with dsym := BitVec.ofNat 5 k } } :=
  (bind_of_ok (modify_apply ..)).trans ((ite_apply_state ..).trans (if_pos hk))

/-- R185, R225: a distance symbol whose extra bits IN cuts short. -/
theorem copyDistance_end {k : Nat} (hk : k ≤ 29) {s : State} (hw : s.regs.inLen < 2 ^ s.cfg.addrW) (hn : distExtra.getD k 0 ≠ 0)
    (hend : 8 * s.regs.inLen < bitPos s.cur + distExtra.getD k 0) :
    copyDistance k s = .error (.raised .endOfInput)
      { s with cur := endCursor s, syms := { s.syms with dsym := BitVec.ofNat 5 k } } := by
  refine (bind_of_ok (modify_apply ..)).trans ((ite_apply_state ..).trans ((if_neg (not_lt.2 hk)).trans ?_))
  exact bind_of_error (readLsb_end (by exact hw) hn hend)

/-- R185: the state with MDIST read. -/
def distanceRead (k d : Nat) (s : State) : State :=
  { s with
    cur := advance s.cur (distExtra.getD k 0)
    syms := { s.syms with dsym := BitVec.ofNat 5 k, mdist := BitVec.ofNat 16 d } }

/-- R187: a distance past OUT_POS. -/
theorem copyDistance_beyond {k d : Nat} (hk : k ≤ 29) {s : State} (hr : readable s (distExtra.getD k 0))
    (hd : d = mdistOf k (fieldLsb s (bitPos s.cur) (distExtra.getD k 0))) (hp : s.outPos < d) :
    copyDistance k s = .error (.raised .invalidBlockData) (distanceRead k d s) := by
  subst hd
  refine (copyDistance_eq hk hr).trans (if_pos ?_)
  rwa [BitVec.toNat_ofNat, Nat.mod_eq_of_lt (mdistOf_lt hk (fieldLsb_lt ..))]

/-- R192, R193: `m` is OUT of `s` with `n` bytes copied to OUT_POS from `dist` before, as far as OUT_CAP lets them. -/
def CopiedFromOutput (s : State) (dist n : Nat) (m : Memory) : Prop :=
  ∀ o, m.read o = if s.outPos ≤ o ∧ o < s.outPos + n ∧ o < s.regs.outCap then m.read (o - dist) else s.outBuf.read o

/-- R192: a whole copy leaves the copy counter at 0. -/
theorem copyBackReference_ok {dist : Nat} (hd : 0 < dist) (len : Nat) {s : State} (hp : dist ≤ s.outPos)
    (hroom : s.outPos + len < 2 ^ s.cfg.addrW) (w : s.outBuf.wf = true) :
    ∃ buf, copyBackReference len dist s = .ok () (withCopyLeft 0 (afterSinks len buf s)) ∧ CopiedFromOutput s dist len buf := by
  obtain ⟨buf, hrun, hnone, -, hread⟩ := copyBytes_ok hd len (s := withCopyLeft len s) hp hroom w
  refine ⟨buf, (bind_of_ok (setCopyLeft_apply ..)).trans (hrun.trans ?_), hread⟩
  by_cases hn : len = 0
  · subst hn
    rw [if_pos rfl, hnone rfl]
    exact congrArg (fun t => EStateM.Result.ok () (withCopyLeft 0 t)) (afterSinks_zero s).symm
  · rw [if_neg hn, afterSinks_withCopyLeft, withCopyLeft_withCopyLeft]

/-- R188: a distance within OUT_POS. -/
theorem copyDistance_ok {k d : Nat} (hk : k ≤ 29) {s : State} (hr : readable s (distExtra.getD k 0))
    (hd : d = mdistOf k (fieldLsb s (bitPos s.cur) (distExtra.getD k 0))) (hp : d ≤ s.outPos)
    (hroom : s.outPos + s.syms.mlen.toNat < 2 ^ s.cfg.addrW) (w : s.outBuf.wf = true) :
    ∃ buf, copyDistance k s =
        .ok () { withCopyLeft 0 (afterSinks s.syms.mlen.toNat buf (distanceRead k d s)) with loopAt := .symbols } ∧
      CopiedFromOutput s d s.syms.mlen.toNat buf := by
  have hfield := fieldLsb_lt s (bitPos s.cur) (distExtra.getD k 0)
  have hmdist : (BitVec.ofNat 16 d).toNat = d := Nat.mod_eq_of_lt (hd ▸ mdistOf_lt hk hfield)
  obtain ⟨buf, hrun, hcopy⟩ :=
    copyBackReference_ok (hd ▸ (mdistOf_range hk hfield).1) s.syms.mlen.toNat (s := distanceRead k d s) hp hroom w
  refine ⟨buf, (copyDistance_eq hk hr).trans ?_, hcopy⟩
  dsimp only
  rw [← hd, hmdist, if_neg (not_lt.2 hp)]
  unfold distanceRead at hrun
  rw [hrun]
  rfl

/-- Settles O27: the distance part of a COPY with the extra bits and the base of the symbol's row, and a copy within OUT_POS. -/
theorem distanceSymbolsCopy : Obligations.DistanceSymbolsCopy := by
  intro s k i extra base d len hrow hr hd hlen w hp hroom
  obtain ⟨hk, hexec, rfl, rfl⟩ := distanceRows_meaning hrow
  subst hlen
  obtain ⟨hlow, hhigh⟩ := mdistOf_range hk (fieldLsb_lt s (bitPos s.cur) _)
  obtain ⟨buf, hrun, hcopy⟩ := copyDistance_ok hk hr hd hp hroom w
  refine ⟨hd ▸ hlow, hd ▸ hhigh, _, (congrFun hexec s).trans (finish_of_ok hrun), ?_,
    fun o h1 h2 h3 => (hcopy o).trans (if_pos ⟨h1, h2, h3⟩), fun o ho => (hcopy o).trans (if_neg (by omega))⟩
  rw [← decide_dropped]
  rfl

/-- Settles O28: the distance is read, and the check against OUT_POS comes before the copy. -/
theorem distanceBeyondOutputRaises : Obligations.DistanceBeyondOutputRaises := by
  intro s k i extra base d hrow hr hd hp
  obtain ⟨hk, hexec, rfl, rfl⟩ := distanceRows_meaning hrow
  exact (congrFun hexec s).trans (finish_of_raised (copyDistance_beyond hk hr hd hp))

/-- Settles O29: both symbols are past the table. -/
theorem invalidDistSymbolsRaise : Obligations.InvalidDistSymbolsRaise := fun s =>
  ⟨finish_of_raised (copyDistance_invalid (k := 30) (by decide) s), finish_of_raised (copyDistance_invalid (k := 31) (by decide) s)⟩

/-! ## Extra bits that IN cuts short -/

/-- R163 to R165, R225: an element that begins with extra bits that IN cuts short. -/
theorem finish_readLsb_end {n : Nat} {f : Nat → M Unit} {s : State} (hw : s.regs.inLen < 2 ^ s.cfg.addrW) (hn : n ≠ 0)
    (hend : 8 * s.regs.inLen < bitPos s.cur + n) :
    finish (readLsb n >>= f) s = .next (enterError .endOfInput { s with cur := endCursor s }) :=
  finish_of_raised (bind_of_error (readLsb_end hw hn hend))

/-- Settles O30: the extra bits come first in a run of code lengths, and right after SYM or DSYM in a COPY. -/
theorem extraBitsCutShort : Obligations.ExtraBitsCutShort := by
  intro s hw
  refine ⟨fun j i extra base hrow hn hend => ?_, fun k i extra base hrow hn hend => ?_, finish_readLsb_end hw (by decide),
    finish_readLsb_end hw (by decide), finish_readLsb_end hw (by decide)⟩
  · obtain ⟨hj, hexec, rfl, -⟩ := lengthRows_meaning hrow
    exact (congrFun hexec s).trans (finish_of_raised (copyLength_end hj hw hn hend))
  · obtain ⟨hk, hexec, rfl, -⟩ := distanceRows_meaning hrow
    exact (congrFun hexec s).trans (finish_of_raised (copyDistance_end hk hw hn hend))

end Sys2Proof.Machine
end

section
/-! SUPPORT. What a DECODE leaves in OUT, in OUT_POS and in TRUNCATED (spec R25, R191, R196). -/

namespace Sys2Proof.Machine

theorem moves_busySteps {s t : State} (h : Relation.ReflTransGen BusyStep s t) : Moves s t := by
  induction h with
  | refl => exact .refl
  | tail _ hstep ih => exact ih.trans (moves_engineStep hstep.2)

/-- R200, R208: a DECODE is the start actions and moves. -/
theorem moves_runDecode {s t : State} (h : runDecode s = .next t) : Moves (startActions s) t := moves_busySteps (runDecode_next h)

theorem dropsBetween_iff {s : State} {p q : Nat} : dropsBetween s p q = true ↔ ∃ o, p ≤ o ∧ o < q ∧ s.regs.outCap ≤ o := by
  simp only [dropsBetween, Bool.and_eq_true, decide_eq_true_eq]
  constructor
  · rintro ⟨hpos, hcap⟩
    exact ⟨q - 1, by omega⟩
  · rintro ⟨o, hlow, hhigh, hcap⟩
    omega

/-- R190: one more byte in the sink is dropped when OUT_POS stands at or past OUT_CAP. -/
theorem dropsBetween_succ (s : State) {p q : Nat} (hpq : p ≤ q) :
    dropsBetween s p (q + 1) = (dropsBetween s p q || decide (s.regs.outCap ≤ q)) := by
  rw [Bool.eq_iff_iff]
  simp only [dropsBetween, Bool.or_eq_true, Bool.and_eq_true, decide_eq_true_eq]
  omega

/-- R191: TRUNCATED has recorded every byte dropped on the way, and nothing else sets or clears it. -/
theorem Moves.truncated {s t : State} (h : Moves s t) :
    t.status.truncated = (s.status.truncated || dropsBetween s s.outPos t.outPos) := by
  induction h with
  | refl => simp [dropsBetween]
  | tail hmoves hmove ih =>
    cases hmove with
    | session hsame => rw [hsame.truncated, hsame.outPos, ih]
    | bit | byte => exact ih
    | put v =>
      have hframe := Moves.frame hmoves
      rw [afterSink_eq, dropsBetween_succ s hframe.outPos, ← Bool.or_assoc, ← ih, hframe.regs]

/-- Settles O43: a DECODE is within the frame of the engine. -/
theorem decodeWritesOnlyItsOutput : Obligations.DecodeWritesOnlyItsOutput := fun _ _ h w =>
  have hframe := runDecode_frame h
  ⟨hframe.outPos, hframe.outBuf_wf w, hframe.outBuf_read w⟩

/-- Settles O42: START clears TRUNCATED, and from there it records the bytes dropped. -/
theorem truncatedMeansDropped : Obligations.TruncatedMeansDropped := by
  intro s t h
  have hdrop : t.status.truncated = true ↔ ∃ o, s.outPos ≤ o ∧ o < t.outPos ∧ s.regs.outCap ≤ o := by
    rw [(moves_runDecode h).truncated]
    exact dropsBetween_iff (s := startActions s)
  refine ⟨hdrop, fun hcap => hdrop.trans ⟨?_, fun hpast => ⟨s.regs.outCap, hcap, hpast, le_rfl⟩⟩⟩
  rintro ⟨o, -, hhigh, hlow⟩
  omega

end Sys2Proof.Machine
end

section
/-! SUPPORT. EndOfInput (spec R225): it is raised with the cursor at or past the end of IN only, and ERR_KIND shows it only when it was
raised. -/

namespace Sys2Proof.Machine

/-! ## The pseudocode that reports the end of IN -/

/-- Run at `s`, the pseudocode keeps ERR_KIND where it reaches its last line, and where it raises EndOfInput the cursor is at or past the
end of IN. -/
def ReportsEndAt {α : Type} (m : M α) (s : State) : Prop :=
  match m s with
  | .ok _ t => t.status.errKind = s.status.errKind
  | .error e t => e = .raised .endOfInput → t.regs.inLen ≤ t.cur.byteOff

/-- The same from every state. -/
def ReportsEnd {α : Type} (m : M α) : Prop := ∀ s, ReportsEndAt m s

section
variable {α β : Type} {m : M α} {s : State}

theorem ReportsEndAt.of_ok {a : α} {t : State} (h : m s = .ok a t) (ht : t.status.errKind = s.status.errKind) : ReportsEndAt m s := by
  unfold ReportsEndAt; rw [h]; exact ht

theorem ReportsEndAt.of_error {e : Stop} {t : State} (h : m s = .error e t)
    (ht : e = .raised .endOfInput → t.regs.inLen ≤ t.cur.byteOff) : ReportsEndAt m s := by
  unfold ReportsEndAt; rw [h]; exact ht

theorem ReportsEnd.bind {f : α → M β} (hm : ReportsEnd m) (hf : ∀ a, ReportsEnd (f a)) : ReportsEnd (m >>= f) := fun s => by
  have hs := hm s
  unfold ReportsEndAt at hs ⊢
  rw [bind_apply]
  cases h : m s with
  | error e t => rw [h] at hs; exact hs
  | ok a t =>
    rw [h] at hs
    have ht := hf a t
    unfold ReportsEndAt at ht
    rwa [hs] at ht

theorem ReportsEnd.pure (a : α) : ReportsEnd (pure a : M α) := fun _ => .of_ok rfl rfl

theorem ReportsEnd.stop {e : Stop} (he : e ≠ .raised .endOfInput) : ReportsEnd (throw e : M α) := fun _ =>
  .of_error rfl fun h => absurd h he

theorem ReportsEnd.raise {e : ErrKind} (he : e ≠ .endOfInput := by decide) : ReportsEnd (raise e : M α) :=
  .stop fun h => he (Stop.raised.inj h)

theorem ReportsEnd.sessionCorrupt : ReportsEnd (throw (.fault .sessionCorrupt) : M α) := .stop nofun

theorem ReportsEnd.modify {f : State → State} (hf : ∀ s, (f s).status.errKind = s.status.errKind := by exact fun _ => rfl) :
    ReportsEnd (modify f : M PUnit) := fun s => .of_ok rfl (hf s)

theorem ReportsEnd.ite {p : Prop} [Decidable p] {n : M α} (hm : ReportsEnd m) (hn : ReportsEnd n) :
    ReportsEnd (if p then m else n) := by
  split
  · exact hm
  · exact hn

/-- An operation that goes on from the state as it stands. -/
theorem ReportsEnd.ofGet {f : State → M α} (h : ∀ s, ReportsEnd (f s)) : ReportsEnd (get >>= f) := fun s => h s s

end

/-! ## The shared operations -/

theorem reportsEnd_readBit : ReportsEnd readBit := fun s => by
  cases h : readBit s with
  | ok b t =>
    obtain ⟨-, -, rfl⟩ := readBit_inv h
    exact .of_ok h rfl
  | error e t =>
    obtain ⟨rfl, ⟨-, hend⟩ | ⟨rfl, -⟩⟩ := readBit_stop h
    · exact .of_error h fun _ => hend
    · exact .of_error h nofun

theorem reportsEnd_readLsb (n : Nat) : ReportsEnd (readLsb n) := by
  induction n with
  | zero => exact .pure 0
  | succ n ih => exact reportsEnd_readBit.bind fun _ => ih.bind fun _ => .pure _

theorem reportsEnd_readMsb_one : ReportsEnd (readMsb 1) := reportsEnd_readBit.bind fun _ => .pure _

theorem reportsEnd_advanceByte : ReportsEnd advanceByte := fun s => by
  by_cases hw : s.cur.byteOff + 1 < 2 ^ s.cfg.addrW
  · exact .of_ok (advanceByte_ok hw) rfl
  · exact .of_error (advanceByte_fault (not_lt.1 hw)) nofun

theorem reportsEnd_alignToByte : ReportsEnd alignToByte := .ofGet fun _ => .ite reportsEnd_advanceByte (.pure ())

theorem reportsEnd_readByte : ReportsEnd readByte := fun s => by
  by_cases hl : s.regs.inLen ≤ s.cur.byteOff
  · exact .of_error (readByte_end hl) fun _ => hl
  · have hrun : readByte s = (do advanceByte; pure (s.inBuf.read s.cur.byteOff)) s := by simp [readByte, hl]
    have hreport := reportsEnd_advanceByte.bind (fun _ => .pure (s.inBuf.read s.cur.byteOff)) s
    unfold ReportsEndAt at hreport ⊢
    rwa [hrun]

theorem reportsEnd_readLe16 : ReportsEnd readLe16 := reportsEnd_readByte.bind fun _ => reportsEnd_readByte.bind fun _ => .pure _

theorem reportsEnd_sinkWrite (v : Byte) : ReportsEnd (sinkWrite v) := fun s => by
  by_cases hw : s.outPos + 1 < 2 ^ s.cfg.addrW
  · exact .of_ok (sinkWrite_ok v hw) (by rw [afterSink_eq])
  · exact .of_error (sinkWrite_fault v (not_lt.1 hw)) nofun

theorem reportsEnd_setCopyLeft (n : Nat) : ReportsEnd (setCopyLeft n) := .modify

theorem reportsEnd_copyBytes (dist n : Nat) : ReportsEnd (copyBytes dist n) := by
  induction n with
  | zero => exact .pure ()
  | succ n ih => exact .ofGet fun _ => (reportsEnd_sinkWrite _).bind fun _ => (reportsEnd_setCopyLeft n).bind fun _ => ih

theorem reportsEnd_copyBackReference (len dist : Nat) : ReportsEnd (copyBackReference len dist) :=
  (reportsEnd_setCopyLeft len).bind fun _ => reportsEnd_copyBytes dist len

theorem reportsEnd_storedBytes (n : Nat) : ReportsEnd (storedBytes n) := by
  induction n with
  | zero => exact .pure ()
  | succ n ih =>
    exact reportsEnd_readByte.bind fun b => (reportsEnd_sinkWrite b).bind fun _ => (reportsEnd_setCopyLeft n).bind fun _ => ih

theorem reportsEnd_storedBody : ReportsEnd storedBody :=
  .ofGet fun _ => .ite .raise ((reportsEnd_setCopyLeft _).bind fun _ => reportsEnd_storedBytes _)

theorem reportsEnd_latchSym (sym : Nat) : ReportsEnd (latchSym sym) := .modify

theorem reportsEnd_latchHeader (b : Bool) (v : Nat) : ReportsEnd (latchHeader b v) := .modify

theorem reportsEnd_endOfBlock : ReportsEnd endOfBlock := .modify fun s => by split <;> rfl

theorem reportsEnd_copyLength (j : Nat) : ReportsEnd (copyLength j) :=
  (reportsEnd_latchSym _).bind fun _ => .ite .raise ((reportsEnd_readLsb _).bind fun _ => .modify)

theorem reportsEnd_copyDistance (k : Nat) : ReportsEnd (copyDistance k) := by
  refine ReportsEnd.bind .modify fun _ => .ite .raise ((reportsEnd_readLsb _).bind fun _ => ReportsEnd.bind .modify fun _ => ?_)
  exact .ofGet fun _ => .ite .raise ((reportsEnd_copyBackReference _ _).bind fun _ => .modify)

theorem reportsEnd_putLengths (c : BitVec 4) (r : Nat) : ReportsEnd (putLengths c r) := by
  induction r with
  | zero => exact .pure ()
  | succ r ih => exact ReportsEnd.bind .modify fun _ => ih

theorem reportsEnd_putRun (c : BitVec 4) (r : Nat) : ReportsEnd (putRun c r) := .ofGet fun _ => .ite .raise (reportsEnd_putLengths c r)

theorem reportsEnd_readClLengths (order : List Nat) (n : Nat) : ReportsEnd (readClLengths order n) := by
  induction order generalizing n with
  | nil => exact .pure ()
  | cons p order ih => exact (reportsEnd_readLsb _).bind fun _ => ReportsEnd.bind .modify fun _ => ih _

theorem reportsEnd_buildClTable : ReportsEnd buildClTable := fun s => by
  cases h : (buildTable 7 s.cl s.scratch).ok with
  | true => exact .of_ok (buildClTable_ok h) rfl
  | false => exact .of_error (buildClTable_fail h) nofun

theorem reportsEnd_buildBlockTables : ReportsEnd buildBlockTables := fun s => by
  have hrun := buildBlockTables_eq s
  dsimp only at hrun
  split at hrun
  · split at hrun
    · exact .of_ok hrun rfl
    · exact .of_error hrun nofun
  · exact .of_error hrun nofun

/-! ## Fetching an element -/

theorem reportsEnd_readHeader : ReportsEnd readHeader :=
  reportsEnd_readMsb_one.bind fun _ => ReportsEnd.bind .modify fun _ =>
    reportsEnd_readMsb_one.bind fun _ => reportsEnd_readMsb_one.bind fun _ => .pure _

theorem reportsEnd_walkTrie (tab : List Slot) (fuel k : Nat) : ReportsEnd (walkTrie tab fuel k) := by
  induction fuel generalizing k with
  | zero => exact .sessionCorrupt
  | succ fuel ih =>
    refine ReportsEnd.bind .modify fun _ => reportsEnd_readMsb_one.bind fun bit => ?_
    cases tab.getD (2 * k + bit) .empty with
    | empty => exact .raise
    | leaf v => exact .pure v
    | node j => exact ih j

theorem reportsEnd_decodeSymbol (tab : List Slot) : ReportsEnd (decodeSymbol tab) := .ofGet fun _ => reportsEnd_walkTrie tab _ 0

theorem reportsEnd_fetchValue (f : Format) : ReportsEnd (fetchValue f) := .ofGet fun s => by
  cases f with
  | blockHeader => exact reportsEnd_readHeader
  | litlenSymbol => exact reportsEnd_decodeSymbol (litlenTable s)
  | distSymbol => exact reportsEnd_decodeSymbol (distTable s)
  | clSymbol => exact reportsEnd_decodeSymbol s.cl.trie.toList
  | hostCommand => exact .sessionCorrupt

theorem reportsEnd_fetch : ReportsEnd fetch := .ofGet fun s => by
  cases nextFormat s with
  | none => exact .sessionCorrupt
  | some f =>
    refine (reportsEnd_fetchValue f).bind fun v => ?_
    cases decode f v with
    | ok i => exact .pure i
    | error r => exact .sessionCorrupt

/-! ## Elements, steps and runs -/

/-- On the way from `s` to `t` ERR_KIND became EndOfInput only where the cursor is at or past the end of IN. -/
def EndReported (s t : State) : Prop :=
  t.status.errKind = errCode .endOfInput → s.status.errKind = errCode .endOfInput ∨ t.regs.inLen ≤ t.cur.byteOff

theorem errCode_injective : Function.Injective errCode := fun e e' h => by
  have hkind := congrArg errOfCode h
  rwa [errOfCode_errCode, errOfCode_errCode, Option.some.injEq] at hkind

theorem endReported_enterError {e : ErrKind} {s t : State} (h : e = .endOfInput → t.regs.inLen ≤ t.cur.byteOff) :
    EndReported s (enterError e t) := fun hkind =>
  .inr (h (errCode_injective hkind))

theorem ReportsEnd.finish {m : M Unit} {s t : State} (hm : ReportsEnd m) (h : finish m s = .next t) : EndReported s t := by
  have hs := hm s
  unfold ReportsEndAt at hs
  rcases finish_next h with hok | ⟨e, u, herr, rfl⟩
  · rw [hok] at hs
    exact fun hkind => .inl (hs ▸ hkind)
  · rw [herr] at hs
    exact endReported_enterError fun he => hs (he ▸ rfl)

/-- The meaning of every element of the stream. -/
theorem meaning_endReported {f : Format} {m : State → Host.Outcome State Fault Refusal} (hm : Meaning f m) (hf : f ≠ .hostCommand)
    {s t : State} (h : m s = .next t) : EndReported s t := by
  cases hm with
  | stored b =>
    refine ReportsEnd.finish ?_ h
    refine (reportsEnd_latchHeader b 0).bind fun _ => ReportsEnd.bind .modify fun _ => reportsEnd_alignToByte.bind fun _ => ?_
    refine reportsEnd_readLe16.bind fun _ => ReportsEnd.bind .modify fun _ => reportsEnd_readLe16.bind fun _ => ?_
    exact ReportsEnd.bind .modify fun _ => reportsEnd_storedBody.bind fun _ => reportsEnd_endOfBlock
  | fixed b => exact ((reportsEnd_latchHeader b 1).bind fun _ => .modify).finish h
  | dynamic b =>
    refine ReportsEnd.finish ?_ h
    refine (reportsEnd_latchHeader b 2).bind fun _ => ReportsEnd.bind .modify fun _ => ?_
    refine (reportsEnd_readLsb 5).bind fun _ => ReportsEnd.bind .modify fun _ => ?_
    refine (reportsEnd_readLsb 5).bind fun _ => ReportsEnd.bind .modify fun _ => ?_
    refine (reportsEnd_readLsb 4).bind fun _ => ReportsEnd.bind .modify fun _ => ?_
    exact (reportsEnd_readClLengths _ _).bind fun _ => reportsEnd_buildClTable.bind fun _ => .modify
  | reserved b => exact ((reportsEnd_latchHeader b 3).bind fun _ => .raise).finish h
  | lit sym => exact ((reportsEnd_latchSym _).bind fun _ => reportsEnd_sinkWrite _).finish h
  | eob => exact ((reportsEnd_latchSym _).bind fun _ => reportsEnd_endOfBlock).finish h
  | length j => exact (reportsEnd_copyLength j).finish h
  | distance k => exact (reportsEnd_copyDistance k).finish h
  | clLit c => exact ReportsEnd.finish .modify h
  | repPrev => exact ((reportsEnd_readLsb 2).bind fun _ => .ofGet fun _ => .ite .raise (reportsEnd_putRun _ _)).finish h
  | repZero => exact ((reportsEnd_readLsb 3).bind fun _ => reportsEnd_putRun _ _).finish h
  | repZeroLong => exact ((reportsEnd_readLsb 7).bind fun _ => reportsEnd_putRun _ _).finish h
  | decode => exact absurd rfl hf

theorem runElement_endReported {s t : State} (h : runElement s = .next t) : EndReported s t := by
  have hfetch := reportsEnd_fetch s
  unfold ReportsEndAt at hfetch
  unfold runElement at h
  cases hm : fetch s with
  | ok i u =>
    rw [hm] at h hfetch
    intro hkind
    exact hfetch ▸ meaning_endReported (exec_meaning i) (format_ne_host (fetch_ne_decode hm)) h hkind
  | error e u =>
    rw [hm] at h hfetch
    cases e with
    | raised e => cases h; exact endReported_enterError fun he => hfetch (he ▸ rfl)
    | fault g => cases h
    | refused r => cases h

theorem busyStep_endReported {s t : State} (h : BusyStep s t) : EndReported s t := by
  obtain ⟨hb, hstep⟩ := h
  cases hd : sequenceDone s with
  | true =>
    rw [engineStep_of_sequenceDone hb hd] at hstep
    exact reportsEnd_buildBlockTables.finish hstep
  | false =>
    rw [engineStep_of_element hb hd] at hstep
    exact runElement_endReported hstep

/-- R225: along a run that starts without EndOfInput, ERR_KIND shows it only when the cursor is at or past the end of IN. -/
theorem busySteps_end {s t : State} (h : Relation.ReflTransGen BusyStep s t) (hs : s.status.errKind ≠ errCode .endOfInput)
    (ht : t.status.errKind = errCode .endOfInput) : t.regs.inLen ≤ t.cur.byteOff := by
  induction h with
  | refl => exact absurd ht hs
  | tail _ hstep ih =>
    rcases busyStep_endReported hstep ht with hkind | hend
    · have hend := ih hkind
      rwa [engineStep_cur_of_end hend hstep.2, (engineStep_frame hstep.2).regs]
    · exact hend

/-- R225: from the end of IN on a run does not move the cursor. -/
theorem busySteps_cur_of_end {s t : State} (h : Relation.ReflTransGen BusyStep s t) (hl : s.regs.inLen ≤ s.cur.byteOff) :
    t.cur = s.cur := by
  induction h with
  | refl => rfl
  | tail hsteps hstep ih =>
    rw [← ih]
    exact engineStep_cur_of_end (by rwa [ih, (busySteps_frame hsteps).regs]) hstep.2

/-- Settles O41: EndOfInput finds the cursor at or past the end of IN; from inside IN no move passes that end, and from the end on no step
moves the cursor. -/
theorem endOfInputCursor : Obligations.EndOfInputCursor := by
  intro s t h hkind
  have hsteps := runDecode_next h
  have hend := busySteps_end hsteps (by simp [errCode]) hkind
  rw [(runDecode_frame h).regs] at hend
  split
  next hl =>
    have hpos := (byteOff_lt_iff _ _).1 hl
    have hle : bitPos t.cur ≤ 8 * s.regs.inLen := (moves_runDecode h).bitPos_le le_rfl hpos.le
    have hge : 8 * s.regs.inLen ≤ bitPos t.cur := not_lt.1 fun hlt => hend.not_gt ((byteOff_lt_iff _ _).2 hlt)
    exact cursor_ext (hle.antisymm hge)
  next hl => exact busySteps_cur_of_end (s := startActions s) hsteps (not_lt.1 hl)

end Sys2Proof.Machine
end

section
/-! SUPPORT. The host command DECODE (spec R200 to R203), error entry (spec R227), reset (spec R44, R250), and the host's accesses at any
time (spec R60, R201, R252, R254). -/

namespace Sys2Proof.Machine

/-! ## DECODE -/

theorem launchWidthOk_iff {s : State} : launchWidthOk s = true ↔
    s.regs.inLen < 2 ^ s.cfg.addrW ∧ s.cur.byteOff < 2 ^ s.cfg.addrW ∧ s.regs.outCap < 2 ^ s.cfg.addrW ∧ s.outPos < 2 ^ s.cfg.addrW := by
  simp [launchWidthOk, and_assoc]

/-- R201: DECODE while BUSY. -/
theorem execDecode_of_busy {s : State} (h : s.status.busy = true) : exec .decode s = .refused .startWhileBusy :=
  finish_of_refused (s' := s) (by simp [h])

/-- R202, R203: DECODE from a state that is not BUSY. -/
theorem execDecode_of_idle {s : State} (h : s.status.busy = false) :
    exec .decode s = if launchWidthOk s = false then .refused .launchWidth
      else if buffersOverlap s = true then .refused .buffersOverlap
      else .next (startActions s) := by
  split
  next hw => exact finish_of_refused (s' := s) (by simp [h, hw])
  next hw =>
    split
    next ho => exact finish_of_refused (s' := s) (by simp [h, hw, ho])
    next ho => exact finish_of_ok (by simp [h, hw, ho])

/-- Settles O35: with both premises met DECODE is the start actions. -/
theorem decodeStartsARun : Obligations.DecodeStartsARun := by
  intro s hb hin hcur hcap hout ho
  have hw : launchWidthOk s = true := launchWidthOk_iff.2 ⟨hin, hcur, hcap, hout⟩
  rw [execDecode_of_idle hb, if_neg (by simp [hw]), if_neg (by simp [ho])]
  rfl

/-- Settles O36: one refusal for each premise, in the order of R201 and R202. -/
theorem decodeRefusals : Obligations.DecodeRefusals := by
  refine fun s => ⟨execDecode_of_busy, fun hb hwide => ?_, fun hb hw ⟨a, hin, hout⟩ => ?_⟩
  · have hw : launchWidthOk s = false := by
      rw [Bool.eq_false_iff, ne_eq, launchWidthOk_iff]
      omega
    rw [execDecode_of_idle hb, if_pos hw]
  · have ho : buffersOverlap s = true := overlap_of_inside hin hout
    rw [execDecode_of_idle hb, if_neg (by simp [hw]), if_pos ho]

/-! ## Errors and the engine at rest -/

/-- R251: the engine waits for START. -/
theorem engineStep_idle {s : State} (h : s.status.busy = false) : engineStep s = .next s := by
  simp [engineStep, h]

/-- R227: an error raised while an element's code is read is taken like any other. -/
theorem engineStep_of_fetch_raised {e : ErrKind} {s t : State} (hb : s.status.busy = true) (hd : sequenceDone s = false)
    (h : fetch s = .error (.raised e) t) : engineStep s = .next (enterError e t) := by
  rw [engineStep_of_element hb hd, runElement, h]

/-- Settles O37: both ways of taking an error are error entry, a bit past the end changes nothing, and error entry clears BUSY. -/
theorem raisedErrorIsTaken : Obligations.RaisedErrorIsTaken :=
  ⟨fun _ _ _ _ h => finish_of_raised h, fun _ _ _ hb hd h => engineStep_of_fetch_raised hb hd h, fun _ h => readBit_end h,
    fun _ _ => engineStep_idle rfl, rfl⟩

/-- Settles O45: with nothing pending a step of the machine is a step of the engine. -/
theorem idleEngineDoesNothing : Obligations.IdleEngineDoesNothing := by
  refine fun s hb => ⟨engineStep_idle hb, fun hq => ?_⟩
  rw [step, platformStep, hq]
  exact engineStep_idle hb

/-! ## Reset -/

/-- Settles O47: a reset from any state with canonical buffers meets the invariant, and from the reset state it is that state. -/
theorem resetMeetsInvariant : Obligations.ResetMeetsInvariant := machineInv_resetEngine (s := State.reset) rfl

/-- Settles O48: the reset values of R250, whatever the parameters. -/
theorem resetIsIdle : Obligations.ResetIsIdle := fun _ => ⟨rfl, rfl, rfl, rfl⟩

/-- Settles O49: a reset entry is one reset, from whatever state. -/
theorem resetKeepsTheBuffers : Obligations.ResetKeepsTheBuffers := by
  refine fun s q hq => ⟨resetEngine { s with hostQ := q }, ?_, rfl, rfl, rfl, rfl, rfl, rfl⟩
  rw [step, platformStep, hq]

/-! ## The host at any time -/

/-- R27: the bits of STATUS. -/
theorem statusWord_fields (t : Status) :
    (statusWord t).getLsbD 0 = t.busy ∧ (statusWord t).getLsbD 1 = t.done ∧ (statusWord t).extractLsb' 2 3 = t.errKind ∧
      (statusWord t).getLsbD 5 = t.truncated ∧ (statusWord t).toNat < 64 := by
  obtain ⟨busy, done, errKind, truncated⟩ := t
  revert busy done errKind truncated
  decide

/-- Settles O55: a read of STATUS asks nothing of the engine, and gives the status word. -/
theorem statusIsReadable : Obligations.StatusIsReadable := fun s _ hq =>
  ⟨statusWord s.status, step_access hq, statusWord_fields s.status⟩

/-- R254: while BUSY a write to CTRL that is not START is refused like any other write. -/
theorem writeCtrl_of_bit_zero_busy {v : Data} (hv : v.getLsbD 0 = false) {s : State} (hb : s.status.busy = true) :
    writeCtrl v s = .refused .hostAccessWhileBusy := by
  have h0 : v.toNat % 2 = 0 := by simpa [BitVec.getLsbD] using hv
  unfold writeCtrl
  rw [h0]
  simp [decode, hb]

/-- R60, R254: while BUSY every access but START and a read of STATUS is refused. -/
theorem hostAccess_of_busy {a : HostAccess} {s : State} (hb : s.status.busy = true) (ha : a ≠ .read .status)
    (hv : ∀ v, a = .write .ctrl v → v.getLsbD 0 = false) : hostAccess a s = .refused .hostAccessWhileBusy := by
  cases a with
  | write r v =>
    cases r with
    | ctrl => exact writeCtrl_of_bit_zero_busy (hv v rfl) hb
    | status | inLen | outCap | byteOff | bitOff | outPos | inBase | outBase => exact if_pos hb
  | read r =>
    cases r with
    | status => exact absurd rfl ha
    | ctrl | inLen | outCap | byteOff | bitOff | outPos | inBase | outBase => exact if_pos hb
  | writeIn | readIn | writeOut | readOut => exact if_pos hb

/-- Settles O56: START is DECODE, which has its own refusal, and every other access meets the host port's. -/
theorem accessWhileBusyIsRefused : Obligations.AccessWhileBusyIsRefused := by
  refine fun s a q hb hq => ⟨fun v ha hv => ?_, fun ha hv => ?_⟩ <;> rw [step_access hq]
  · rw [ha]
    exact (writeCtrl_of_bit_one hv _).trans (execDecode_of_busy hb)
  · exact hostAccess_of_busy hb ha hv

/-- Settles O58: a poll reads STATUS where DONE is 1, and else is a step of the engine. -/
theorem pollWaitsForDone : Obligations.PollWaitsForDone := by
  refine fun s q hq => ⟨fun hdone => ?_, fun hdone => ?_⟩ <;> simp [step, platformStep, hq, hdone]

end Sys2Proof.Machine
end
